-- ==== Sys2Proof/Word.lean ====
section
/-! DEFINITION. Word.lean: the two value widths of the block (00_scope.md section 5: a byte is 8 bits, a word is 32 bits, all values unsigned). -/

namespace Sys2Proof

/-- A byte, 8 bits (00_scope.md section 5). -/
abbrev Byte := BitVec 8

/-- A word, 32 bits (00_scope.md section 5). -/
abbrev Word := BitVec 32

end Sys2Proof
end

