-- ==== Sys2Proof/Config.lean ====
section
/-! DEFINITION. Config.lean: what is fixed when the block is built: the protocol constants (rule R5), the CRC parameters (rule R6), and the two build-time parameters CHUNK_CAP (rule R8) and RX_UNESCAPE (rule R9). No other parameter exists (rule R10). The spec leaves no value open, so no constant here is a free value. -/

namespace Sys2Proof

/-- Frame delimiter `F` (rule R5, FRAME_DELIM). -/
abbrev frameDelim : Byte := 0x7E#8

/-- Escape marker `E` (rule R5, ESCAPE). -/
abbrev escapeMark : Byte := 0x7D#8

/-- Escape XOR mask `M` (rule R5, ESCAPE_XOR). -/
abbrev escapeMask : Byte := 0x20#8

/-- CRC_POLY, the reflected polynomial (rule R6). -/
abbrev crcPoly : Word := 0xEDB88320#32

/-- CRC_SEED (rules R6, R106). -/
abbrev crcSeedValue : Word := 0xFFFFFFFF#32

/-- CRC_XOROUT (rule R6). -/
abbrev crcXorOut : Word := 0xFFFFFFFF#32

/-- The build-time parameters (rules R8, R9, R10): fixed for the life of an instance, and not state (rule R36). -/
structure Config where
  /-- CHUNK_CAP, the capacity in bytes of the receive chunk buffer (rule R8). -/
  chunkCap : Nat
  /-- RX_UNESCAPE, whether the parser un-stuffs wire bytes before interpreting them (rule R9). -/
  rxUnescape : Bool
  deriving DecidableEq, Repr

/-- A legal build: `1 <= CHUNK_CAP` (rule R8). -/
abbrev Config.wf (cfg : Config) : Prop := 1 ≤ cfg.chunkCap

/-- The values of this hardware: CHUNK_CAP = 256 (rule R8), RX_UNESCAPE = true (rule R9). -/
abbrev Config.hardware : Config := { chunkCap := 256, rxUnescape := true }

/-- The reference-firmware variant of rule R152, not this hardware's value: kept so that the two can be compared. -/
abbrev Config.rawVariant (cfg : Config) : Config := { cfg with rxUnescape := false }

end Sys2Proof
end

