-- ==== Sys2Proof/Machine/Types.lean ====
section
/-! DEFINITION. Machine/Types.lean: the fixed sets of names of the block: the six parser states (rule R21), the seven wire symbols (rule R77), the three events (rules R147 to R150), and the two result shapes of the codec function port (rule R81). -/

namespace Sys2Proof.Machine

/-- The parser's state, in the source's order (rule R21). -/
inductive RxState where
  | waitStart
  | readType
  | readLength
  | readData
  | readCrc
  | expectEnd
  deriving DecidableEq, Repr

/-- The wire symbols of rule R77. -/
inductive Symbol where
  | sof
  | drop
  | xlit
  | esc
  | lit
  | eof
  | badeof
  deriving DecidableEq, Repr

/-- One transaction of the event port (rules R81, R147). -/
inductive Event where
  /-- START(type, len) (rule R148). -/
  | start (type : Byte) (len : Word)
  /-- DATA(type, n, bytes), the chunk passed by value (rules R56, R149). -/
  | data (type : Byte) (n : Nat) (bytes : List Byte)
  /-- FINISHED(type, valid) (rule R150). -/
  | finished (type : Byte) (valid : Bool)
  deriving DecidableEq, Repr

/-- One result on the codec function port (rule R81). -/
inductive CodecResult where
  /-- The one or two wire bytes of STUFF.ENC (rule R120). -/
  | encoded (bytes : List Byte)
  /-- The pending flag after the byte and the logical byte, if any, of STUFF.DEC (rule R122). -/
  | decoded (pending : Bool) (logical : Option Byte)
  deriving DecidableEq, Repr

end Sys2Proof.Machine
end

