-- ==== Sys2Proof/Syntax.lean ====
section
/-! DEFINITION. Syntax.lean: the rows of spec/opcode_table.json as one inductive type. The block has no instruction word for its operations (rule R82: a model represents the operations as the constructors of an inductive type), so an operation is its constructor with its operands. The wire-symbol, wire-item and frame rows carry the wire bytes they stand for, less the bits the table fixes. -/

namespace Sys2Proof

/-- One constructor for each of the 24 rows of spec/opcode_table.json. -/
inductive Instr where
  /-- CRC.TABLE, CRC function port (rules R80, R100). -/
  | crcTable (n : Byte)
  /-- CRC.SEED, CRC function port (rules R80, R106). -/
  | crcSeed
  /-- CRC.UPDATE, CRC function port (rules R80, R102). -/
  | crcUpdate (c : Word) (b : Byte)
  /-- CRC.FINAL, CRC function port (rules R80, R103). -/
  | crcFinal (c : Word)
  /-- STUFF.ENC, codec function port (rules R80, R120). -/
  | stuffEnc (b : Byte)
  /-- STUFF.DEC, codec function port: `p` is the pending flag before the byte (rules R80, R122). -/
  | stuffDec (p : Bool) (w : Byte)
  /-- RX.STEP, RX byte port (rules R80, R130). -/
  | rxStep (w : Byte)
  /-- TX.SEND, TX command port: `len` is by definition the number of payload bytes (rules R80, R161). -/
  | txSend (type : Byte) (len : Word) (payload : List Byte)
  /-- RESET, reset port (rules R80, R210). -/
  | reset
  /-- SOF, the wire byte 0x7E in WAIT_START (rule R77 row 1). -/
  | sof
  /-- DROP, any other wire byte in WAIT_START (rule R77 row 2). -/
  | drop (w : Byte)
  /-- XLIT, the wire byte after an escape marker in a content state (rule R77 row 3). -/
  | xlit (w : Byte)
  /-- ESC, the wire byte 0x7D in a content state (rule R77 row 4). -/
  | esc
  /-- LIT, any other wire byte in a content state (rule R77 row 5). -/
  | lit (w : Byte)
  /-- EOF, the wire byte 0x7E in EXPECT_END (rule R77 row 6). -/
  | eof
  /-- BADEOF, any other wire byte in EXPECT_END (rule R77 row 7). -/
  | badeof (w : Byte)
  /-- ITEM.ESC7E, the wire pair 7D 5E (rules R75, R120). -/
  | itemEsc7E
  /-- ITEM.ESC7D, the wire pair 7D 5D (rules R75, R120). -/
  | itemEsc7D
  /-- ITEM.PLAIN, a one-byte item (rules R75, R120). -/
  | itemPlain (b : Byte)
  /-- ITEM.NONCANON, the wire pair 7D x with x neither 5E nor 5D (rules R78, R83, R122). -/
  | itemNoncanon (x : Byte)
  /-- FRAME, one whole frame (rule R70); its length and checksum fields follow from type and payload. -/
  | frame (type : Byte) (payload : List Byte)
  /-- EV.START, the event START(rx_type, rx_len) (rule R148). -/
  | evStart
  /-- EV.DATA, the event DATA(rx_type, rx_buf_n, rx_buf[0..rx_buf_n-1]) (rule R149). -/
  | evData
  /-- EV.FINISHED, the event FINISHED(rx_type, valid) (rule R150). -/
  | evFinished (valid : Bool)
  deriving DecidableEq, Repr

end Sys2Proof
end

