-- ==== Sys2Proof/Machine/Operands.lean ====
section
/-! DEFINITION. Machine/Operands.lean: how the fields of operands are widened, cut into bytes and put together again: zero extension, the little-endian byte sequence of a word and its inverse (rules R52, R74), the content states (rule R77), and the 3-bit code of the parser's state (rule R21). -/

namespace Sys2Proof.Machine

/-- `zext_32(b)`: the byte as a word with 24 zero bits above it (00_scope.md section 5). -/
def zext32 (b : Byte) : Word := b.setWidth 32

/-- Byte `k` of a word: `v[8k+7 : 8k]` (00_scope.md section 5). -/
def byteAt (v : Word) (k : Nat) : Byte := v.extractLsb' (8 * k) 8

/-- `le32(v)`: `v[7:0], v[15:8], v[23:16], v[31:24]` (rule R74). -/
def le32 (v : Word) : List Byte := [byteAt v 0, byteAt v 1, byteAt v 2, byteAt v 3]

/-- Merge the `k`-th byte received: `acc | (zext_32(b) << (8 * k))` (rule R74). -/
def mergeLane (acc : Word) (k : Nat) (b : Byte) : Word := acc ||| (zext32 b <<< (8 * k))

/-- The word whose `le32` is the four bytes, merged from 0 one at a time as the parser does (rule R74). -/
def ofLe32 (b0 b1 b2 b3 : Byte) : Word :=
  mergeLane (mergeLane (mergeLane (mergeLane 0#32 0 b0) 1 b1) 2 b2) 3 b3

/-- The four states that read logical bytes (rule R77; 00_scope.md section 6). -/
def RxState.isContent : RxState → Bool
  | .waitStart => false
  | .readType => true
  | .readLength => true
  | .readData => true
  | .readCrc => true
  | .expectEnd => false

/-- The 3-bit pattern of a state, where bits are wanted (rule R21, decision D8); 6 and 7 are never produced. -/
def RxState.code : RxState → BitVec 3
  | .waitStart => 0
  | .readType => 1
  | .readLength => 2
  | .readData => 3
  | .readCrc => 4
  | .expectEnd => 5

end Sys2Proof.Machine
end

