-- ==== Sys2Proof/Machine/Codec.lean ====
section
/-! DEFINITION. Machine/Codec.lean: the byte-stuffing codec's two functions (41_stuffing.md) and their extension to sequences. The decoder's one bit of memory is passed in and out. -/

namespace Sys2Proof.Machine

/-- `stuff_enc(b)` (rule R120). -/
def stuffEncFn (b : Byte) : List Byte :=
  if b = frameDelim ∨ b = escapeMark then [escapeMark, b ^^^ escapeMask] else [b]

/-- `stuff_dec(p, w)` (rule R122): the test on `p` comes first. -/
def stuffDecFn (p : Bool) (w : Byte) : Bool × Option Byte :=
  if p then (false, some (w ^^^ escapeMask))
  else if w = escapeMark then (true, none)
  else (false, some w)

/-- The wire bytes of a sequence of logical bytes (rule R125). -/
def stuffEncAll (bs : List Byte) : List Byte := bs.flatMap stuffEncFn

/-- Feed a wire sequence to the decoder: the final pending flag and the logical bytes (rule R125). -/
def stuffDecAll : Bool → List Byte → Bool × List Byte
  | p, [] => (p, [])
  | p, w :: ws =>
    let rest := stuffDecAll (stuffDecFn p w).1 ws
    (rest.1, (stuffDecFn p w).2.toList ++ rest.2)

end Sys2Proof.Machine
end

