-- ==== Sys2Proof/Machine/State.lean ====
section
/-! DEFINITION. Machine/State.lean: everything the spec gives one instance of the block (10_state.md rules R21 to R32), the host's side of its ports (20_memory.md rule R50, 30_encoding.md rule R81), the reasons a step can stop, and the state after reset (rule R43). CRC_T (rule R33) is a constant no operation writes: it is `crcRom` of Machine/CrcEngine.lean, not a field. -/

namespace Sys2Proof.Machine

/-- A byte memory as a list of (index, byte) pairs: indices strictly rising, and no entry for a byte that is 0, which is what an unlisted index reads as (rule R43: every byte of `rx_buf` is 0 at reset). -/
abbrev Memory := List Host.Cell

/-- One instance of the block with its ports. -/
structure State where
  /-- `rx_state` (rule R21) -/
  rxState : RxState
  /-- `rx_esc`, 1 bit (rule R22) -/
  rxEsc : Bool
  /-- `rx_type`, 8 bits (rule R23) -/
  rxType : Byte
  /-- `rx_len`, 32 bits (rule R24) -/
  rxLen : Word
  /-- `rx_len_cnt`, 3 bits (rule R25) -/
  rxLenCnt : BitVec 3
  /-- `rx_read`, 32 bits (rule R26) -/
  rxRead : Word
  /-- `rx_crc`, 32 bits, un-finalized (rule R27) -/
  rxCrc : Word
  /-- `rx_sum`, 32 bits (rule R28) -/
  rxSum : Word
  /-- `rx_sum_cnt`, 3 bits (rule R29) -/
  rxSumCnt : BitVec 3
  /-- `rx_buf`, CHUNK_CAP bytes, the space BUF (rules R30, R50) -/
  rxBuf : Memory
  /-- `rx_buf_n`, 0 to CHUNK_CAP (rule R31) -/
  rxBufN : Nat
  /-- `tx_crc`, 32 bits (rule R32) -/
  txCrc : Word
  /-- the operations the host has yet to issue, next first; its RX.STEPs carry the RX byte stream (rules R50, R232) -/
  pending : List Instr
  /-- the event stream, oldest first (rules R50, R63) -/
  events : List Event
  /-- the TX byte stream, oldest first (rules R50, R160) -/
  txOut : List Byte
  /-- the results on the CRC function port, oldest first (rule R81) -/
  crcOut : List Word
  /-- the results on the codec function port, oldest first (rule R81) -/
  codecOut : List CodecResult
  deriving DecidableEq, Repr

/-- Why the model stops where the spec gives nothing to go on with. The block itself has no fault state (rule R180). -/
inductive Fault where
  /-- An access to `BUF[i]` with `i` not below CHUNK_CAP: raised by the payload-byte write of RX.STEP (and of the wire rows that deliver a payload byte) and by EV.DATA, only in states no run reaches (rules R51, R41 (c)). Safe: the model stops. -/
  | bufIndexOutOfRange
  deriving DecidableEq, Repr

/-- Why the model gives an instruction no meaning. -/
inductive Refusal where
  /-- An instruction still without a meaning, rejected by name in exec's arm. Safe. -/
  | notModelled (mnemonic : String)
  /-- A TX.SEND whose payload is not a sequence of exactly `len` bytes, or a FRAME of 2^32 payload bytes or more: rule R161 says no such operand exists. Raised by the meanings of TX.SEND and FRAME on ill-formed operands only. Safe. -/
  | payloadLength
  deriving DecidableEq, Repr

/-- The machine right after reset (rule R43); the host has issued nothing and nothing has left a port. -/
def State.reset : State where
  rxState := .waitStart
  rxEsc := false
  rxType := 0#8
  rxLen := 0#32
  rxLenCnt := 0#3
  rxRead := 0#32
  rxCrc := 0#32
  rxSum := 0#32
  rxSumCnt := 0#3
  rxBuf := []
  rxBufN := 0
  txCrc := 0#32
  pending := []
  events := []
  txOut := []
  crcOut := []
  codecOut := []

end Sys2Proof.Machine
end

