-- ==== Sys2Proof/Machine/Ops.lean ====
section
/-! DEFINITION. Machine/Ops.lean: the named operations every meaning is written with: sequencing of outcomes, the byte memory, the access to BUF (rule R51), the ports (rules R81, R160), and the emission of an event as one shared operation. The block takes no exception and has no return from one (rules R180, R186); what stands in their place is the event emission of rule R185 and the unconditional return to WAIT_START of rule R146. -/

namespace Sys2Proof.Machine

/-- What a step of the block answers. -/
abbrev Result := Host.Outcome State Fault Refusal

/-- Go on from a next state; a fault or a refusal stops. -/
def Result.andThen (r : Result) (f : State → Result) : Result :=
  match r with
  | .next s => f s
  | .fault e => .fault e
  | .refused e => .refused e

/-! ### Byte memory -/

/-- The byte at an index; an unlisted index reads as 0 (rule R43). -/
def Memory.read : Memory → Nat → Byte
  | [], _ => 0#8
  | (k, v) :: rest, a => if a = k then v else Memory.read rest a

/-- Set the byte at an index and change nothing else (rule R51), keeping the canonical form. -/
def Memory.write : Memory → Nat → Byte → Memory
  | [], a, v => if v = 0#8 then [] else [(a, v)]
  | (k, u) :: rest, a, v =>
    if a < k then
      if v = 0#8 then (k, u) :: rest else (a, v) :: (k, u) :: rest
    else if a = k then
      if v = 0#8 then rest else (a, v) :: rest
    else (k, u) :: Memory.write rest a v

/-- Every listed index is above `a`. -/
def Memory.above (a : Nat) (m : Memory) : Bool := m.all fun c => decide (a < c.1)

/-- The canonical form: indices strictly rising, no listed zero. -/
def Memory.wf : Memory → Bool
  | [] => true
  | (k, v) :: rest => v != 0#8 && Memory.above k rest && Memory.wf rest

/-- Every listed index is below the capacity. -/
def Memory.within (cap : Nat) (m : Memory) : Bool := m.all fun c => decide (c.1 < cap)

/-! ### BUF -/

/-- `MemWrite(BUF[i], 1, v)` for `0 <= i < CHUNK_CAP` (rule R51); an index that does not exist faults (assumption 12). -/
def bufWrite (cfg : Config) (i : Nat) (v : Byte) (s : State) : Result :=
  if i < cfg.chunkCap then .next { s with rxBuf := s.rxBuf.write i v }
  else .fault .bufIndexOutOfRange

/-- The bytes collected so far, `rx_buf[0], ..., rx_buf[rx_buf_n - 1]` (rule R149). -/
def State.chunk (s : State) : List Byte := (List.range s.rxBufN).map s.rxBuf.read

/-! ### Events -/

/-- Put one event on the event port: it saves no state and transfers control nowhere inside the block (rule R185). -/
def State.emit (e : Event) (s : State) : State := { s with events := s.events ++ [e] }

/-- `emit START(rx_type, rx_len)` (rule R148). -/
def State.emitStart (s : State) : State := s.emit (.start s.rxType s.rxLen)

/-- `emit DATA(rx_type, rx_buf_n, rx_buf[0 .. rx_buf_n - 1])` (rule R149). -/
def State.emitData (s : State) : State := s.emit (.data s.rxType s.rxBufN s.chunk)

/-- `emit FINISHED(rx_type, valid)` (rule R150). -/
def State.emitFinished (valid : Bool) (s : State) : State := s.emit (.finished s.rxType valid)

/-! ### Output ports -/

/-- `write(b)`: the byte joins the TX byte stream, and nothing else changes (rule R160). -/
def State.write (b : Byte) (s : State) : State := { s with txOut := s.txOut ++ [b] }

/-- Write a sequence of bytes in order (rules R160, R163). -/
def State.writeAll (bs : List Byte) (s : State) : State := { s with txOut := s.txOut ++ bs }

/-- Show a result on the CRC function port (rule R81). -/
def State.putCrc (v : Word) (s : State) : State := { s with crcOut := s.crcOut ++ [v] }

/-- Show a result on the codec function port (rule R81). -/
def State.putCodec (r : CodecResult) (s : State) : State := { s with codecOut := s.codecOut ++ [r] }

/-! ### Registers -/

/-- `rx_state <- st`, the block's only control transfer (00_scope.md section 5). -/
def State.setRxState (st : RxState) (s : State) : State := { s with rxState := st }

/-- `rx_esc <- p` (rule R132). -/
def State.setRxEsc (p : Bool) (s : State) : State := { s with rxEsc := p }

/-- `tx_crc <- c` (rule R162). -/
def State.setTxCrc (c : Word) (s : State) : State := { s with txCrc := c }

/-- Every register of the block takes its reset value (rules R43, R210); the ports' streams are not registers and stay (no event is emitted and no byte is written). -/
def State.resetRegisters (s : State) : State :=
  { State.reset with
    pending := s.pending, events := s.events, txOut := s.txOut,
    crcOut := s.crcOut, codecOut := s.codecOut }

end Sys2Proof.Machine
end

