-- ==== Sys2Proof/Machine/CodecFamily.lean ====
section
/-! DEFINITION. Machine/CodecFamily.lean: the meanings of STUFF.ENC and STUFF.DEC (41_stuffing.md). Each shows its result on the codec function port and changes no register (rule R58). -/

namespace Sys2Proof.Machine

/-- STUFF.ENC (rule R120). -/
def execStuffEnc (b : Byte) (s : State) : Result := .next (s.putCodec (.encoded (stuffEncFn b)))

/-- STUFF.DEC (rule R122). -/
def execStuffDec (p : Bool) (w : Byte) (s : State) : Result :=
  .next (s.putCodec (.decoded (stuffDecFn p w).1 (stuffDecFn p w).2))

end Sys2Proof.Machine
end

