-- ==== Sys2Proof/Machine/CrcFamily.lean ====
section
/-! DEFINITION. Machine/CrcFamily.lean: the meanings of CRC.TABLE, CRC.SEED, CRC.UPDATE and CRC.FINAL (40_crc.md). Each shows its result on the CRC function port and changes no register (rule R58). -/

namespace Sys2Proof.Machine

/-- CRC.TABLE (rule R100). -/
def execCrcTable (n : Byte) (s : State) : Result := .next (s.putCrc (crcTableFn n))

/-- CRC.SEED (rule R106). -/
def execCrcSeed (s : State) : Result := .next (s.putCrc crcSeedValue)

/-- CRC.UPDATE (rule R102). -/
def execCrcUpdate (c : Word) (b : Byte) (s : State) : Result := .next (s.putCrc (crcUpdateFn c b))

/-- CRC.FINAL (rule R103). -/
def execCrcFinal (c : Word) (s : State) : Result := .next (s.putCrc (crcFinalize c))

end Sys2Proof.Machine
end

