-- ==== Sys2Proof/Machine/EventFamily.lean ====
section
/-! DEFINITION. Machine/EventFamily.lean: the meanings of the three event rows: the emission of the event with the arguments the table gives it (rules R147 to R150, R185), and nothing else. RX.STEP emits through the same operations (Machine/Parser.lean). -/

namespace Sys2Proof.Machine

/-- EV.START: START(rx_type, rx_len) (rule R148). -/
def execEvStart (s : State) : Result := .next s.emitStart

/-- EV.DATA: DATA(rx_type, rx_buf_n, rx_buf[0..rx_buf_n-1]) for 1 <= rx_buf_n <= CHUNK_CAP (rule R149). With nothing collected there is no event (never an event with n = 0, rule R141), and bytes beyond the buffer do not exist (assumptions 11, 12). -/
def execEvData (s : State) : Result :=
  if s.rxBufN = 0 then .next s
  else if s.rxBufN ≤ Config.hardware.chunkCap then .next s.emitData
  else .fault .bufIndexOutOfRange

/-- EV.FINISHED: FINISHED(rx_type, valid) (rule R150). -/
def execEvFinished (valid : Bool) (s : State) : Result := .next (s.emitFinished valid)

end Sys2Proof.Machine
end

