-- ==== Sys2Proof/WellFormed.lean ====
section
/-! DEFINITION. WellFormed.lean: the operand conditions that the rows of the opcode table and rule R161 place on an instruction. Every value of every operand of the other rows is legal (rule R84). -/

namespace Sys2Proof

/-- The operand conditions, row by row. -/
def Instr.wf : Instr → Bool
  | .crcTable _ => true
  | .crcSeed => true
  | .crcUpdate _ _ => true
  | .crcFinal _ => true
  | .stuffEnc _ => true
  | .stuffDec _ _ => true
  | .rxStep _ => true
  -- the payload is a sequence of exactly `len` bytes (rule R161)
  | .txSend _ len payload => payload.length == len.toNat
  | .reset => true
  | .sof => true
  -- DROP: any byte not matched by SOF (rule R77 rows 1, 2)
  | .drop w => w != frameDelim
  | .xlit _ => true
  | .esc => true
  -- LIT: any byte not matched by ESC, 0x7E included (rule R77 rows 4, 5)
  | .lit w => w != escapeMark
  | .eof => true
  -- BADEOF: any byte not matched by EOF (rule R77 rows 6, 7)
  | .badeof w => w != frameDelim
  | .itemEsc7E => true
  | .itemEsc7D => true
  -- ITEM.PLAIN: any value other than 0x7E and 0x7D (opcode_table.json; rule R75)
  | .itemPlain b => b != frameDelim && b != escapeMark
  -- ITEM.NONCANON: any second byte other than 0x5E and 0x5D (opcode_table.json; rule R78)
  | .itemNoncanon x => x != 0x5E#8 && x != 0x5D#8
  -- a payload of 2^32 or more bytes cannot be expressed (rules R7, R161)
  | .frame _ payload => decide (payload.length < 2 ^ 32)
  | .evStart => true
  | .evData => true
  | .evFinished _ => true

end Sys2Proof
end

