-- ==== Sys2Proof/Decode.lean ====
section
/-! DEFINITION. Decode.lean: the block's two real encodings and their encoder. One wire byte is read as a wire symbol in the parser's context (rule R77, the "opcode map"). A wire string is read as an item or a whole frame (rules R70, R75, R78; the wire-item and frame rows of opcode_table.json). The nine operations have no word (rule R82) and the three events are outputs, so neither decodes from bytes. -/

namespace Sys2Proof

open Sys2Proof.Machine

/-! ### One wire byte, in context -/

/-- The wire symbol of the byte `w` in the context (`rx_state`, `rx_esc`) (rule R77). In WAIT_START and EXPECT_END the flag is not looked at (rule R131; assumption 9), and with RX_UNESCAPE = false every content byte is LIT (rule R152). -/
def symbolAt (cfg : Config) (st : RxState) (pending : Bool) (w : Byte) : Symbol :=
  match st with
  | .waitStart => if w = frameDelim then .sof else .drop
  | .expectEnd => if w = frameDelim then .eof else .badeof
  | .readType | .readLength | .readData | .readCrc =>
    if cfg.rxUnescape then
      if pending then .xlit else if w = escapeMark then .esc else .lit
    else .lit

/-- The wire-symbol row with the byte it was read from; SOF, ESC and EOF fix the whole byte. -/
def symbolInstr (y : Symbol) (w : Byte) : Instr :=
  match y with
  | .sof => .sof
  | .drop => .drop w
  | .xlit => .xlit w
  | .esc => .esc
  | .lit => .lit w
  | .eof => .eof
  | .badeof => .badeof w

/-- The wire byte, in context, as a row of the opcode table (rule R77); total on every byte in every context. -/
def decodeSymbol (cfg : Config) (st : RxState) (pending : Bool) (w : Byte) : Instr :=
  symbolInstr (symbolAt cfg st pending w) w

/-! ### Wire strings -/

/-- Why a wire string is not one of the wire-item or frame rows. (The parser itself rejects no byte, rule R83; these are the reasons of the strict reader of rule R70's format.) -/
inductive DecodeError where
  /-- there is no byte to read -/
  | noBytes
  /-- the string ends after an escape marker -/
  | truncatedItem
  /-- the string ends before the closing delimiter -/
  | truncatedFrame
  /-- a frame's item is none of ITEM.ESC7E, ITEM.ESC7D, ITEM.PLAIN -/
  | nonCanonicalItem
  /-- fewer than the five logical bytes of type and length -/
  | shortHeader
  /-- the logical bytes after the header are not LEN + 4 -/
  | lengthMismatch
  /-- the last four logical bytes are not the checksum -/
  | checksumMismatch
  deriving DecidableEq, Repr

/-- The row of the pair `7D x` (rules R75, R78): the ITEM.ESC rows are matched first. -/
def pairItem (x : Byte) : Instr :=
  if x = 0x5E#8 then .itemEsc7E else if x = 0x5D#8 then .itemEsc7D else .itemNoncanon x

/-- The logical bytes of a frame's items up to the closing delimiter, and the bytes after it. Only the items a serializer produces are read (rules R70, R72); the flag says that an escape marker has just been read. -/
def readItems : Bool → List Byte → Except DecodeError (List Byte × List Byte)
  | _, [] => .error .truncatedFrame
  | true, x :: rest =>
    if x = 0x5E#8 ∨ x = 0x5D#8 then
      match readItems false rest with
      | .ok (ls, after) => .ok ((x ^^^ escapeMask) :: ls, after)
      | .error e => .error e
    else .error .nonCanonicalItem
  | false, b :: rest =>
    if b = frameDelim then .ok ([], rest)
    else if b = escapeMark then readItems true rest
    else
      match readItems false rest with
      | .ok (ls, after) => .ok (b :: ls, after)
      | .error e => .error e

/-- The frame whose logical bytes these are: type, LEN, LEN payload bytes, checksum (rules R71, R73). -/
def frameOfLogical : List Byte → Except DecodeError Instr
  | t :: l0 :: l1 :: l2 :: l3 :: tail =>
    let n := (ofLe32 l0 l1 l2 l3).toNat
    if tail.length = n + 4 then
      if tail.drop n = le32 (crc32 ([t, l0, l1, l2, l3] ++ tail.take n)) then
        .ok (.frame t (tail.take n))
      else .error .checksumMismatch
    else .error .lengthMismatch
  | _ => .error .shortHeader

/-- Read one wire item or one whole frame from the front of a wire string, and give back the rest. Total: every string is read or rejected by name. -/
def decode : List Byte → Except DecodeError (Instr × List Byte)
  | [] => .error .noBytes
  | b :: rest =>
    if b = frameDelim then
      match readItems false rest with
      | .ok (ls, after) =>
        match frameOfLogical ls with
        | .ok i => .ok (i, after)
        | .error e => .error e
      | .error e => .error e
    else if b = escapeMark then
      match rest with
      | [] => .error .truncatedItem
      | x :: after => .ok (pairItem x, after)
    else .ok (.itemPlain b, rest)

/-! ### The encoder -/

/-- The bytes a frame's checksum covers: `type ‖ le32(length) ‖ payload` (rule R73). -/
def coveredBytes (type : Byte) (len : Word) (payload : List Byte) : List Byte :=
  type :: (le32 len ++ payload)

/-- The `9 + len` logical bytes of a frame (rules R71, R164). -/
def frameLogical (type : Byte) (len : Word) (payload : List Byte) : List Byte :=
  coveredBytes type len payload ++ le32 (crc32 (coveredBytes type len payload))

/-- The wire bytes of a frame: `7E ‖ X ‖ 7E` (rules R70, R164). -/
def frameBytes (type : Byte) (payload : List Byte) : List Byte :=
  frameDelim :: (stuffEncAll (frameLogical type (BitVec.ofNat 32 payload.length) payload)
    ++ [frameDelim])

/-- The wire bytes of a row, from the tables of rules R70, R75 and R77. The operations (rule R82) and the events have none. -/
def encode : Instr → Option (List Byte)
  | .crcTable _ => none
  | .crcSeed => none
  | .crcUpdate _ _ => none
  | .crcFinal _ => none
  | .stuffEnc _ => none
  | .stuffDec _ _ => none
  | .rxStep _ => none
  | .txSend _ _ _ => none
  | .reset => none
  | .sof => some [0x7E#8]
  | .drop w => some [w]
  | .xlit w => some [w]
  | .esc => some [0x7D#8]
  | .lit w => some [w]
  | .eof => some [0x7E#8]
  | .badeof w => some [w]
  | .itemEsc7E => some [0x7D#8, 0x5E#8]
  | .itemEsc7D => some [0x7D#8, 0x5D#8]
  | .itemPlain b => some [b]
  | .itemNoncanon x => some [0x7D#8, x]
  | .frame t p => some (frameBytes t p)
  | .evStart => none
  | .evData => none
  | .evFinished _ => none

/-! ### The opcode table's words -/

/-- The `n` wire bytes of a table word, numbered as opcode_table.json numbers them: the first byte on the wire in the highest bits ("bits 15:8, first on the wire"; assumption 17). -/
def tableWordBytes : Nat → Nat → List Byte
  | 0, _ => []
  | n + 1, w => BitVec.ofNat 8 (w >>> (8 * n)) :: tableWordBytes n w

/-- The context in which a one-byte table word is read: a content state for 0x7D, whose own row is ESC, and WAIT_START for every other byte (assumption 18). -/
def tableContext (w : Byte) : RxState × Bool :=
  if w = escapeMark then (.readType, false) else (.waitStart, false)

/-- The instruction the decoder reads from a table word of `nbits` bits. -/
def decodeTableWord (nbits w : Nat) : Option Instr :=
  if nbits = 8 then
    let b := BitVec.ofNat 8 w
    some (decodeSymbol Config.hardware (tableContext b).1 (tableContext b).2 b)
  else if nbits % 8 = 0 then
    match decode (tableWordBytes (nbits / 8) w) with
    | .ok (i, []) => some i
    | _ => none
  else none

end Sys2Proof
end

