-- ==== Sys2Proof/Machine/Flags.lean ====
section
/-! DEFINITION. Machine/Flags.lean: the block's two one-bit quantities (rule R37): the escape-pending flag, stored in rx_esc, and the validity flag of FINISHED, which is computed and not stored. There are no carry, zero, sign or overflow flags. -/

namespace Sys2Proof.Machine

/-- The unescape stage: the value rx_esc takes and the logical byte, if any, of the wire byte `w` (rules R131, R132; with RX_UNESCAPE = false the stage is the identity, rule R152). -/
def unescapeStage (cfg : Config) (pending : Bool) (w : Byte) : Bool × Option Byte :=
  if cfg.rxUnescape then stuffDecFn pending w else (false, some w)

/-- The checksum part of the verdict: exactly 4 checksum bytes were received and the finalized running CRC equals the received checksum (rule R146). -/
def checksumGood (sumCnt : BitVec 3) (crc sum : Word) : Bool :=
  sumCnt == 4#3 && crcFinalize crc == sum

/-- `valid` (rule R146): the checksum part, and the next byte is the frame delimiter. -/
def validFlag (sumCnt : BitVec 3) (crc sum : Word) (w : Byte) : Bool :=
  checksumGood sumCnt crc sum && w == frameDelim

end Sys2Proof.Machine
end

