-- ==== Sys2Proof/Machine/Parser.lean ====
section
/-! DEFINITION. Machine/Parser.lean: the frame parser (42_parser.md): what a logical byte does in each content state, RX.STEP as the pseudocode of rule R131, the delivery of a wire string, and the meanings of RX.STEP and of the seven wire symbols. Written for a general build `cfg` (rule R8); the meanings are those of this hardware's build. -/

namespace Sys2Proof.Machine

/-! ### Logical bytes -/

/-- READ_TYPE takes the type byte: the per-packet reset (rule R136). -/
def takeType (b : Byte) (s : State) : State :=
  { s with
    rxType := b, rxLen := 0#32, rxLenCnt := 0#3, rxSum := 0#32, rxSumCnt := 0#3,
    rxRead := 0#32, rxCrc := crcUpdateFn crcSeedValue b, rxState := .readLength }

/-- READ_LENGTH merges one length byte (rule R138, the first three statements). -/
def mergeLength (b : Byte) (s : State) : State :=
  { s with
    rxLen := mergeLane s.rxLen s.rxLenCnt.toNat b,
    rxLenCnt := s.rxLenCnt + 1#3,
    rxCrc := crcUpdateFn s.rxCrc b }

/-- After the fourth length byte: START, the buffer cursor to 0, READ_DATA (rule R138). -/
def beginData (s : State) : State := { s.emitStart with rxBufN := 0, rxState := .readData }

/-- READ_LENGTH takes one length byte (rule R138). -/
def takeLength (b : Byte) (s : State) : State :=
  if (mergeLength b s).rxLenCnt = 4#3 then beginData (mergeLength b s) else mergeLength b s

/-- `TAKE_SUM(b)`: take one checksum byte (rule R144). -/
def takeSum (b : Byte) (s : State) : State :=
  { s with
    rxSum := mergeLane s.rxSum s.rxSumCnt.toNat b,
    rxSumCnt := s.rxSumCnt + 1#3,
    rxState := if s.rxSumCnt + 1#3 = 4#3 then .expectEnd else .readCrc }

/-- The buffer cursor and the byte count move on past the byte just stored (rule R141). -/
def advancePayload (s : State) : State :=
  { s with rxBufN := s.rxBufN + 1, rxRead := s.rxRead + 1#32 }

/-- Hand the chunk over and reset the cursor (rule R141). -/
def flushChunk (s : State) : State := { s.emitData with rxBufN := 0 }

/-- The flush and the end of the payload, after the counters have moved (rule R141): one DATA event when the buffer is full or the payload complete, and READ_CRC when it is complete. -/
def finishPayload (cfg : Config) (s : State) : State :=
  let flushed := if s.rxBufN = cfg.chunkCap ∨ s.rxRead = s.rxLen then flushChunk s else s
  if s.rxRead = s.rxLen then flushed.setRxState .readCrc else flushed

/-- READ_DATA takes a payload byte (rule R141). -/
def takePayload (cfg : Config) (b : Byte) (s : State) : Result :=
  Result.andThen (bufWrite cfg s.rxBufN b { s with rxCrc := crcUpdateFn s.rxCrc b })
    fun s1 => .next (finishPayload cfg (advancePayload s1))

/-- `LOGICAL(b)` (rule R135). It is called in content states only. -/
def logicalByte (cfg : Config) (b : Byte) (s : State) : Result :=
  match s.rxState with
  | .readType => .next (takeType b s)
  | .readLength => .next (takeLength b s)
  | .readData => if s.rxRead < s.rxLen then takePayload cfg b s else .next (takeSum b s)
  | .readCrc => .next (takeSum b s)
  | .waitStart => .next s
  | .expectEnd => .next s

/-! ### Wire bytes -/

/-- EXPECT_END takes the byte after the checksum (rule R146): FINISHED, and WAIT_START whatever the verdict. -/
def finishPacket (valid : Bool) (s : State) : State := (s.emitFinished valid).setRxState .waitStart

/-- The unescape stage has written rx_esc; a logical byte, if there is one, goes to LOGICAL (rules R131, R132). -/
def deliverLogical (cfg : Config) (stage : Bool × Option Byte) (s : State) : Result :=
  match stage.2 with
  | none => .next (s.setRxEsc stage.1)
  | some b => logicalByte cfg b (s.setRxEsc stage.1)

/-- `RX.STEP(w)`, the pseudocode of rule R131. -/
def rxByte (cfg : Config) (w : Byte) (s : State) : Result :=
  match s.rxState with
  | .waitStart => .next (if w = frameDelim then s.setRxState .readType else s)
  | .readType | .readLength | .readData | .readCrc =>
    deliverLogical cfg (unescapeStage cfg s.rxEsc w) s
  | .expectEnd => .next (finishPacket (validFlag s.rxSumCnt s.rxCrc s.rxSum w) s)

/-- Feed a wire string to RX.STEP one byte at a time from the left (rule R86). -/
def rxBytes (cfg : Config) : List Byte → State → Result
  | [], s => .next s
  | w :: ws, s => Result.andThen (rxByte cfg w s) (rxBytes cfg ws)

/-- The wire symbol of `w` in this state, on this hardware (rule R77). -/
def State.symbol (s : State) (w : Byte) : Symbol := symbolAt Config.hardware s.rxState s.rxEsc w

/-! ### Meanings -/

/-- RX.STEP (rules R130, R131). -/
def execRxStep (w : Byte) (s : State) : Result := rxByte Config.hardware w s

/-- SOF: `rx_state <- READ_TYPE`, nothing else (rule R133). In a context where rule R77 gives the byte 0x7E another symbol, it has that symbol's effect (assumption 8). -/
def execSof (s : State) : Result :=
  if s.symbol frameDelim = .sof then .next (s.setRxState .readType)
  else rxByte Config.hardware frameDelim s

/-- DROP: no register changes, no event (rule R134). Elsewhere as for SOF (assumption 8). -/
def execDrop (w : Byte) (s : State) : Result :=
  if s.symbol w = .drop then .next s else rxByte Config.hardware w s

/-- XLIT: `rx_esc <- 0`, logical byte `w ^ 0x20` (rule R132). Elsewhere as for SOF (assumption 8). -/
def execXlit (w : Byte) (s : State) : Result :=
  if s.symbol w = .xlit then logicalByte Config.hardware (w ^^^ escapeMask) (s.setRxEsc false)
  else rxByte Config.hardware w s

/-- ESC: `rx_esc <- 1`, nothing else (rule R132). Elsewhere as for SOF (assumption 8). -/
def execEsc (s : State) : Result :=
  if s.symbol escapeMark = .esc then .next (s.setRxEsc true)
  else rxByte Config.hardware escapeMark s

/-- LIT: logical byte `w`; rx_esc stays 0 (rule R132). Elsewhere as for SOF (assumption 8). -/
def execLit (w : Byte) (s : State) : Result :=
  if s.symbol w = .lit then logicalByte Config.hardware w s else rxByte Config.hardware w s

/-- EOF: FINISHED with the checksum's verdict, WAIT_START (rule R146). Elsewhere as for SOF (assumption 8). -/
def execEof (s : State) : Result :=
  if s.symbol frameDelim = .eof then
    .next (finishPacket (checksumGood s.rxSumCnt s.rxCrc s.rxSum) s)
  else rxByte Config.hardware frameDelim s

/-- BADEOF: FINISHED(valid = 0), WAIT_START; the byte is consumed (rule R146). Elsewhere as for SOF (assumption 8). -/
def execBadeof (w : Byte) (s : State) : Result :=
  if s.symbol w = .badeof then .next (finishPacket false s) else rxByte Config.hardware w s

end Sys2Proof.Machine
end

