-- ==== Sys2Proof/Machine/ResetFamily.lean ====
section
/-! DEFINITION. Machine/ResetFamily.lean: the meaning of RESET (70_reset_and_hazards.md rule R210). -/

namespace Sys2Proof.Machine

/-- RESET: every register takes its reset value; no event is emitted and no byte is written (rules R210, R212). -/
def execReset (s : State) : Result := .next s.resetRegisters

end Sys2Proof.Machine
end

