-- ==== Sys2Proof/Machine/Serializer.lean ====
section
/-! DEFINITION. Machine/Serializer.lean: the frame serializer (43_serializer.md): PUT_COVERED, PUT_PLAIN, and the meaning of TX.SEND as the pseudocode of rule R162. -/

namespace Sys2Proof.Machine

/-- `PUT_PLAIN(b)`: write the one or two wire bytes of `b` (rule R163). -/
def putPlain (s : State) (b : Byte) : State := s.writeAll (stuffEncFn b)

/-- `PUT_COVERED(b)`: fold the logical byte into tx_crc once, and write its wire bytes (rule R163). -/
def putCovered (s : State) (b : Byte) : State :=
  (s.setTxCrc (crcUpdateFn s.txCrc b)).writeAll (stuffEncFn b)

/-- From the opening delimiter to the last payload byte (rule R162). -/
def sendCovered (type : Byte) (len : Word) (payload : List Byte) (s : State) : State :=
  let opened := (s.write frameDelim).setTxCrc crcSeedValue
  let typed := putCovered opened type
  let headed := (le32 len).foldl putCovered typed
  payload.foldl putCovered headed

/-- The four checksum bytes, not folded, and the closing delimiter; tx_crc is not changed (rule R162). -/
def sendTrailer (s : State) : State :=
  ((le32 (crcFinalize s.txCrc)).foldl putPlain s).write frameDelim

/-- TX.SEND (rule R162), for a payload of exactly `len` bytes (rule R161; assumption 13). -/
def execTxSend (type : Byte) (len : Word) (payload : List Byte) (s : State) : Result :=
  if payload.length = len.toNat then .next (sendTrailer (sendCovered type len payload s))
  else .refused .payloadLength

end Sys2Proof.Machine
end

