-- ==== Sys2Proof/Machine/WireFamily.lean ====
section
/-! DEFINITION. Machine/WireFamily.lean: the meanings of the wire-item rows and of the FRAME row: the bytes they stand for, delivered to RX.STEP one at a time (rules R76, R78, R86). -/

namespace Sys2Proof.Machine

/-- ITEM.ESC7E: the wire pair 7D 5E (rule R75). -/
def execItemEsc7E (s : State) : Result := rxBytes Config.hardware [escapeMark, 0x5E#8] s

/-- ITEM.ESC7D: the wire pair 7D 5D (rule R75). -/
def execItemEsc7D (s : State) : Result := rxBytes Config.hardware [escapeMark, 0x5D#8] s

/-- ITEM.PLAIN: the wire byte `b` (rule R75). -/
def execItemPlain (b : Byte) (s : State) : Result := rxBytes Config.hardware [b] s

/-- ITEM.NONCANON: the wire pair 7D x (rule R78). -/
def execItemNoncanon (x : Byte) (s : State) : Result := rxBytes Config.hardware [escapeMark, x] s

/-- FRAME t, [p]: the wire bytes TX.SEND produces, fed to RX.STEP from the left (rule R86; assumption 10). -/
def execFrame (type : Byte) (payload : List Byte) (s : State) : Result :=
  if payload.length < 2 ^ 32 then rxBytes Config.hardware (frameBytes type payload) s
  else .refused .payloadLength

end Sys2Proof.Machine
end

