-- ==== Sys2Proof/Machine/Dispatch.lean ====
section
/-! DEFINITION. Machine/Dispatch.lean: one arm per row of spec/opcode_table.json, each one call of its meaning. -/

namespace Sys2Proof.Machine

/-- The meaning of an instruction, row by row of spec/opcode_table.json. -/
def exec (i : Instr) (s : State) : Host.Outcome State Fault Refusal :=
  match i with
  | .crcTable n => Sys2Proof.Machine.execCrcTable n s
  | .crcSeed => Sys2Proof.Machine.execCrcSeed s
  | .crcUpdate c b => Sys2Proof.Machine.execCrcUpdate c b s
  | .crcFinal c => Sys2Proof.Machine.execCrcFinal c s
  | .stuffEnc b => Sys2Proof.Machine.execStuffEnc b s
  | .stuffDec p w => Sys2Proof.Machine.execStuffDec p w s
  | .rxStep w => Sys2Proof.Machine.execRxStep w s
  | .txSend t len p => Sys2Proof.Machine.execTxSend t len p s
  | .reset => Sys2Proof.Machine.execReset s
  | .sof => Sys2Proof.Machine.execSof s
  | .drop w => Sys2Proof.Machine.execDrop w s
  | .xlit w => Sys2Proof.Machine.execXlit w s
  | .esc => Sys2Proof.Machine.execEsc s
  | .lit w => Sys2Proof.Machine.execLit w s
  | .eof => Sys2Proof.Machine.execEof s
  | .badeof w => Sys2Proof.Machine.execBadeof w s
  | .itemEsc7E => Sys2Proof.Machine.execItemEsc7E s
  | .itemEsc7D => Sys2Proof.Machine.execItemEsc7D s
  | .itemPlain b => Sys2Proof.Machine.execItemPlain b s
  | .itemNoncanon x => Sys2Proof.Machine.execItemNoncanon x s
  | .frame t p => Sys2Proof.Machine.execFrame t p s
  | .evStart => Sys2Proof.Machine.execEvStart s
  | .evData => Sys2Proof.Machine.execEvData s
  | .evFinished v => Sys2Proof.Machine.execEvFinished v s

end Sys2Proof.Machine
end

