-- ==== Sys2Proof/Machine/Fetch.lean ====
section
/-! DEFINITION. Machine/Fetch.lean: where the next instruction comes from. The block has no program counter and fetches from no memory (rule R35): the host issues operations at the ports in an order it chooses (rule R232), and `pending` is that order. -/

namespace Sys2Proof.Machine

/-- The operation the host issues next, and the state once it has been taken from the host's sequence; none when the host issues nothing. -/
def fetchNext (s : State) : Option (Instr × State) :=
  match s.pending with
  | [] => none
  | i :: rest => some (i, { s with pending := rest })

/-- The instruction becomes the next operation the host issues. -/
def issueNext (i : Instr) (s : State) : State := { s with pending := i :: s.pending }

/-- Put the parser in the context the instruction's first wire byte is read in, if it is not in such a context already: SOF and DROP in WAIT_START, ESC and the items in a content state (rule R77; assumption 19). -/
def enterContext (i : Instr) (s : State) : State :=
  match i with
  | .sof => if s.rxState = .waitStart then s else { s with rxState := .waitStart, rxEsc := false }
  | .drop _ => if s.rxState = .waitStart then s else { s with rxState := .waitStart, rxEsc := false }
  | .frame _ _ => if s.rxState = .waitStart then s else { s with rxState := .waitStart, rxEsc := false }
  | .esc | .itemEsc7E | .itemEsc7D | .itemNoncanon _ =>
    if s.rxState.isContent && !s.rxEsc then s else { s with rxState := .readType, rxEsc := false }
  | .crcTable _ | .crcSeed | .crcUpdate _ _ | .crcFinal _ | .stuffEnc _ | .stuffDec _ _
  | .rxStep _ | .txSend _ _ _ | .reset | .xlit _ | .lit _ | .eof | .badeof _ | .itemPlain _
  | .evStart | .evData | .evFinished _ => s

/-- Issue the instruction of a table word next; a word the decoder refuses changes nothing. -/
def issueTableWord (s : State) (nbits w : Nat) : State :=
  match decodeTableWord nbits w with
  | some i => issueNext i (enterContext i s)
  | none => s

end Sys2Proof.Machine
end

