-- ==== Sys2Proof/Machine/Step.lean ====
section
/-! DEFINITION. Machine/Step.lean: one step of an instance: the host's next operation, run to completion (rules R59, R62). -/

namespace Sys2Proof.Machine

/-- One step. When the host issues nothing the block is idle and all state survives (rule R197; assumption 5). -/
def step (s : State) : Host.Outcome State Fault Refusal :=
  match fetchNext s with
  | none => .next s
  | some (i, s1) => exec i s1

/-- The state with a table word's instruction placed where `step` takes its next one. -/
def State.withFetchWord (s : State) (nbits w : Nat) : State := issueTableWord s nbits w

end Sys2Proof.Machine
end

