-- ==== Sys2Proof/Safety.lean ====
section
/-! DEFINITION. Safety.lean: the terms in which claims are made: the invariant of rule R41, the event grammar of rule R156, the chunks of rule R142, where RX.STEP stores, and what it is for two states to agree on one side of the block. -/

namespace Sys2Proof.Machine

/-! ### The invariant -/

/-- The invariant of rule R41 for a build `cfg`, with what makes it inductive: in READ_LENGTH no payload and no checksum byte has been taken, and the buffer is in canonical form and within its capacity. -/
structure State.Inv (cfg : Config) (s : State) : Prop where
  /-- R41 (a), first half -/
  lenCnt_le : s.rxLenCnt ≤ 4#3
  /-- R41 (a), second half -/
  sumCnt_le : s.rxSumCnt ≤ 4#3
  /-- R41 (b) -/
  read_le : s.rxRead ≤ s.rxLen
  /-- R41 (c): the buffer is not full between steps -/
  cursor_lt : s.rxBufN < cfg.chunkCap
  /-- R41 (h) -/
  esc_off : s.rxState = .waitStart ∨ s.rxState = .expectEnd → s.rxEsc = false
  /-- R41 (i), and the counters the type byte cleared -/
  in_length : s.rxState = .readLength → s.rxLenCnt ≤ 3#3 ∧ s.rxRead = 0#32 ∧ s.rxSumCnt = 0#3
  /-- R41 (d), (e) -/
  in_data : s.rxState = .readData →
    s.rxLenCnt = 4#3 ∧ s.rxSumCnt = 0#3 ∧ s.rxBufN = s.rxRead.toNat % cfg.chunkCap ∧
      (s.rxRead < s.rxLen ∨ (s.rxLen = 0#32 ∧ s.rxRead = 0#32))
  /-- R41 (f) -/
  in_crc : s.rxState = .readCrc → s.rxRead = s.rxLen ∧ s.rxBufN = 0 ∧ s.rxSumCnt ≤ 3#3
  /-- R41 (g) -/
  in_end : s.rxState = .expectEnd → s.rxSumCnt = 4#3
  /-- the buffer's list is in canonical form -/
  buf_wf : s.rxBuf.wf = true
  /-- the buffer lists no index at or above CHUNK_CAP (rule R30) -/
  buf_within : s.rxBuf.within cfg.chunkCap = true

/-! ### Wire bytes and logical bytes -/

/-- The one logical byte the instruction delivers to LOGICAL when the parser is in a content state of this hardware (rules R122, R132), if it delivers exactly one: LIT and XLIT, RX.STEP on a byte that is not an escape marker, and each wire item begun with no escape pending. -/
def State.delivered (s : State) : Instr → Option Byte
  | .rxStep w =>
    if s.rxEsc then some (w ^^^ escapeMask) else if w = escapeMark then none else some w
  | .xlit w => if s.rxEsc then some (w ^^^ escapeMask) else none
  | .lit w => if s.rxEsc then none else if w = escapeMark then none else some w
  | .itemEsc7E => if s.rxEsc then none else some 0x7E#8
  | .itemEsc7D => if s.rxEsc then none else some 0x7D#8
  | .itemPlain b => if s.rxEsc then none else if b = escapeMark then none else some b
  | .itemNoncanon x => if s.rxEsc then none else some (x ^^^ escapeMask)
  | .crcTable _ | .crcSeed | .crcUpdate _ _ | .crcFinal _ | .stuffEnc _ | .stuffDec _ _
  | .txSend _ _ _ | .reset | .sof | .drop _ | .esc | .eof | .badeof _ | .frame _ _ | .evStart
  | .evData | .evFinished _ => none

/-- Where RX.STEP on `w` stores to BUF: at `rx_buf_n` when `w` delivers a payload byte, nowhere else (rule R141). -/
def State.storeIndex (cfg : Config) (w : Byte) (s : State) : Option Nat :=
  if s.rxState = .readData ∧ s.rxRead < s.rxLen ∧ (unescapeStage cfg s.rxEsc w).2.isSome = true
  then some s.rxBufN else none

/-- Between packets: WAIT_START with no escape pending, the start state of rules R155 and R168. -/
def State.idle (s : State) : Prop := s.rxState = .waitStart ∧ s.rxEsc = false

/-! ### What the rows are -/

/-- The rows a wire string is read as: the items and the frame. -/
def isWireString : Instr → Bool
  | .itemEsc7E | .itemEsc7D | .itemPlain _ | .itemNoncanon _ | .frame _ _ => true
  | .crcTable _ | .crcSeed | .crcUpdate _ _ | .crcFinal _ | .stuffEnc _ | .stuffDec _ _
  | .rxStep _ | .txSend _ _ _ | .reset | .sof | .drop _ | .xlit _ | .esc | .lit _ | .eof
  | .badeof _ | .evStart | .evData | .evFinished _ => false

/-- The rows whose meaning is a delivery of wire bytes to the parser. -/
def isReceive : Instr → Bool
  | .rxStep _ | .sof | .drop _ | .xlit _ | .esc | .lit _ | .eof | .badeof _ | .itemEsc7E
  | .itemEsc7D | .itemPlain _ | .itemNoncanon _ | .frame _ _ => true
  | .crcTable _ | .crcSeed | .crcUpdate _ _ | .crcFinal _ | .stuffEnc _ | .stuffDec _ _
  | .txSend _ _ _ | .reset | .evStart | .evData | .evFinished _ => false

/-- The operations of the two function ports, which hold no state (rule R58). -/
def isFunctionPort : Instr → Bool
  | .crcTable _ | .crcSeed | .crcUpdate _ _ | .crcFinal _ | .stuffEnc _ | .stuffDec _ _ => true
  | .rxStep _ | .txSend _ _ _ | .reset | .sof | .drop _ | .xlit _ | .esc | .lit _ | .eof
  | .badeof _ | .itemEsc7E | .itemEsc7D | .itemPlain _ | .itemNoncanon _ | .frame _ _
  | .evStart | .evData | .evFinished _ => false

/-! ### Two states that agree -/

/-- Every register of the block and every byte of BUF is the same (rules R21 to R32). -/
def sameRegisters (s t : State) : Prop :=
  t.rxState = s.rxState ∧ t.rxEsc = s.rxEsc ∧ t.rxType = s.rxType ∧ t.rxLen = s.rxLen ∧
    t.rxLenCnt = s.rxLenCnt ∧ t.rxRead = s.rxRead ∧ t.rxCrc = s.rxCrc ∧ t.rxSum = s.rxSum ∧
    t.rxSumCnt = s.rxSumCnt ∧ t.rxBufN = s.rxBufN ∧ t.txCrc = s.txCrc ∧
    ∀ a, t.rxBuf.read a = s.rxBuf.read a

/-- What does not belong to the RX agent is the same: tx_crc, the TX byte stream, the function ports' results and the host's sequence (rules R20, R64). -/
def sameOutsideRx (s t : State) : Prop :=
  t.txCrc = s.txCrc ∧ t.txOut = s.txOut ∧ t.crcOut = s.crcOut ∧ t.codecOut = s.codecOut ∧
    t.pending = s.pending

/-! ### Chunks and packets -/

/-- Cut a payload into pieces of `cap` bytes, the last one shorter where it must be; `fuel` bounds the number of pieces. -/
def chunksUpTo (cap : Nat) : Nat → List Byte → List (List Byte)
  | 0, _ => []
  | fuel + 1, p =>
    match p with
    | [] => []
    | b :: rest => (b :: rest).take cap :: chunksUpTo cap fuel ((b :: rest).drop cap)

/-- The chunks of a payload (rule R142). -/
def chunks (cap : Nat) (p : List Byte) : List (List Byte) := chunksUpTo cap p.length p

/-- The events of one complete packet (rules R142, R156, R168). -/
def packetEvents (cap : Nat) (type : Byte) (len : Word) (payload : List Byte) (valid : Bool) :
    List Event :=
  .start type len ::
    ((chunks cap payload).map (fun c => Event.data type c.length c) ++ [.finished type valid])

/-- Where an event stream stands: between packets, or inside one with so many payload bytes still to come. -/
inductive EventPos where
  | between
  | inside (type : Byte) (remaining : Nat)
  deriving DecidableEq, Repr

/-- The next event, if the grammar of rule R156 allows it: a DATA event carries CHUNK_CAP bytes or all that remain. -/
def eventStep (cap : Nat) : EventPos → Event → Option EventPos
  | .between, .start t len => some (.inside t len.toNat)
  | .inside t r, .data t' n bytes =>
    if t' = t ∧ n = bytes.length ∧ 1 ≤ n ∧ n = min cap r then some (.inside t (r - n)) else none
  | .inside t r, .finished t' _ => if t' = t ∧ r = 0 then some .between else none
  | .between, .data _ _ _ => none
  | .between, .finished _ _ => none
  | .inside _ _, .start _ _ => none

/-- An event stream by the grammar of rule R156; none when it breaks it. -/
def eventsFrom (cap : Nat) : EventPos → List Event → Option EventPos
  | p, [] => some p
  | p, e :: es =>
    match eventStep cap p e with
    | some q => eventsFrom cap q es
    | none => none

/-- The packet a parser state is in, as the grammar sees it: open from START to FINISHED (rule R156). -/
def State.eventPos (s : State) : EventPos :=
  match s.rxState with
  | .waitStart => .between
  | .readType => .between
  | .readLength => .between
  | .readData => .inside s.rxType (s.rxLen.toNat - s.rxRead.toNat + s.rxBufN)
  | .readCrc => .inside s.rxType 0
  | .expectEnd => .inside s.rxType 0

end Sys2Proof.Machine
end

