-- ==== Sys2Proof/Certificates/Slice0/Obligations.lean ====
section
/-! DEFINITION. Certificates/Slice0/Obligations.lean: the statements for the provers, family by family. Each docstring names the rule of spec/ it formalises, and says so where a clause is the spec's own decision or the model's choice. -/

open Sys2Proof Sys2Proof.Machine

/-! ### The CRC engine -/

/-- CRC.TABLE shows the table value of its operand on the CRC port and changes nothing else, and the corner values are those rule R100 prints (that the shift stands in both branches is 90_conflicts.md C4, general knowledge). -/
def Obligations.CrcTableResult : Prop :=
  (∀ (n : Byte) (s : State),
    exec (.crcTable n) s = .next { s with crcOut := s.crcOut ++ [crcShift 8 (zext32 n)] }) ∧
  crcShift 8 (zext32 0#8) = 0x00000000#32 ∧ crcShift 8 (zext32 1#8) = 0x77073096#32 ∧
  crcShift 8 (zext32 2#8) = 0xEE0E612C#32 ∧ crcShift 8 (zext32 128#8) = 0xEDB88320#32 ∧
  crcShift 8 (zext32 255#8) = 0x2D02EF8D#32

/-- CRC.SEED shows 0xFFFFFFFF and changes nothing else; folding the byte 0x00 into it gives 0x2DFD1072 (rule R106). -/
def Obligations.CrcSeedResult : Prop :=
  (∀ s : State, exec .crcSeed s = .next { s with crcOut := s.crcOut ++ [0xFFFFFFFF#32] }) ∧
  crcUpdateFn 0xFFFFFFFF#32 0x00#8 = 0x2DFD1072#32

/-- CRC.UPDATE shows the table value at the low byte of `c ^ zext_32(b)`, XORed with `c >> 8`, and changes nothing else: rule R102 with `CRC_T[n] = crc_table(n)` of rule R33 (the expression is general knowledge, 93_implementation_defined.md G2). -/
def Obligations.CrcUpdateResult : Prop :=
  ∀ (c : Word) (b : Byte) (s : State),
    exec (.crcUpdate c b) s =
      .next { s with
        crcOut := s.crcOut ++ [crcTableFn ((c ^^^ b.setWidth 32).extractLsb' 0 8) ^^^ (c >>> 8)] }

/-- CRC.FINAL shows `c ^ 0xFFFFFFFF` and changes nothing else, the accumulators included; finalizing twice undoes it (rule R103). -/
def Obligations.CrcFinalResult : Prop :=
  (∀ (c : Word) (s : State),
    exec (.crcFinal c) s = .next { s with crcOut := s.crcOut ++ [c ^^^ 0xFFFFFFFF#32] }) ∧
  ∀ c : Word, crcFinalize (crcFinalize c) = c

/-- The table-driven update equals the bitwise loop on every operand pair (rule R105, marked general knowledge by the spec). -/
def Obligations.TableUpdateEqualsBitwiseLoop : Prop :=
  ∀ (c : Word) (b : Byte), crcUpdateFn c b = crcUpdateBitwise c b

/-- Folding the four checksum bytes of an accumulator into it always gives the residue 0xDEBB20E3 (rule R109 (b), marked general knowledge by the spec). -/
def Obligations.ResidueIsConstant : Prop :=
  ∀ c : Word, crcFold c (le32 (crcFinalize c)) = 0xDEBB20E3#32

/-- The check value of the variant: the checksum of "123456789" (rules R104, R109 (a)), by way of the accumulator of the first four bytes (rule R107). -/
def Obligations.CheckStringChecksum : Prop :=
  crcFold crcSeedValue [0x31#8, 0x32#8, 0x33#8, 0x34#8] = 0x641C1F5C#32 ∧
  crcFold 0x641C1F5C#32 [0x35#8, 0x36#8, 0x37#8, 0x38#8, 0x39#8] = 0x340BC6D9#32 ∧
  crc32 [0x31#8, 0x32#8, 0x33#8, 0x34#8, 0x35#8, 0x36#8, 0x37#8, 0x38#8, 0x39#8] = 0xCBF43926#32

/-- The six operations of the function ports are pure (rule R58): in every state each shows the one result its operands determine, and changes no register, no byte of BUF and no other port. -/
def Obligations.FunctionPortsArePure : Prop :=
  ∀ i : Instr, isFunctionPort i = true →
    ∃ (rs : List Word) (cs : List CodecResult), rs.length + cs.length = 1 ∧
      ∀ s : State, ∃ t : State, exec i s = .next t ∧
        t.crcOut = s.crcOut ++ rs ∧ t.codecOut = s.codecOut ++ cs ∧ sameRegisters s t ∧
        t.events = s.events ∧ t.txOut = s.txOut ∧ t.pending = s.pending

/-! ### The codec -/

/-- STUFF.ENC (rule R120): the two reserved values go out as pairs, every other byte unchanged; nothing else changes. -/
def Obligations.StuffEncResult : Prop :=
  ∀ (b : Byte) (s : State),
    exec (.stuffEnc b) s =
      .next { s with
        codecOut := s.codecOut ++
          [.encoded
            (if b = 0x7E#8 then [0x7D#8, 0x5E#8]
             else if b = 0x7D#8 then [0x7D#8, 0x5D#8] else [b])] }

/-- STUFF.DEC (rule R122): after a marker every byte is data; a marker alone delivers nothing; any other byte, a bare 0x7E included, is itself (the last two readings are the spec's decisions D10 and D9). -/
def Obligations.StuffDecResult : Prop :=
  ∀ (w : Byte) (s : State),
    exec (.stuffDec true w) s =
      .next { s with codecOut := s.codecOut ++ [.decoded false (some (w ^^^ 0x20#8))] } ∧
    exec (.stuffDec false w) s =
      .next { s with
        codecOut := s.codecOut ++
          [if w = 0x7D#8 then .decoded true none else .decoded false (some w)] }

/-- Decoding the encodings of any byte sequence gives it back and leaves no escape pending (rule R125). -/
def Obligations.DecodingUndoesEncoding : Prop :=
  ∀ bs : List Byte, stuffDecAll false (stuffEncAll bs) = (false, bs)

/-- No encoder output is the delimiter, and every marker in a concatenation of encoder outputs starts a pair whose second byte is 0x5E or 0x5D (rules R72, R121). -/
def Obligations.EncodedBytesAvoidTheDelimiter : Prop :=
  ∀ bs : List Byte,
    frameDelim ∉ stuffEncAll bs ∧
    ∀ u v : List Byte, stuffEncAll bs = u ++ escapeMark :: v →
      ∃ x v', v = x :: v' ∧ (x = 0x5E#8 ∨ x = 0x5D#8)

/-! ### Encodings -/

/-- `le32` and its inverse (rule R74): the four slices of a word, least significant first; merging them one at a time from 0 gives the word back; and cutting four merged bytes gives the bytes back. -/
def Obligations.LittleEndianFieldsAreInverse : Prop :=
  (∀ v : Word,
    le32 v = [v.extractLsb' 0 8, v.extractLsb' 8 8, v.extractLsb' 16 8, v.extractLsb' 24 8] ∧
    ofLe32 (byteAt v 0) (byteAt v 1) (byteAt v 2) (byteAt v 3) = v) ∧
  ∀ b0 b1 b2 b3 : Byte, le32 (ofLe32 b0 b1 b2 b3) = [b0, b1, b2, b3]

/-- Rule R77's table, row by row, on this hardware: the symbol of every byte in every context of the table. -/
def Obligations.WireSymbolTable : Prop :=
  ∀ (w : Byte),
    (w = 0x7E#8 → symbolAt Config.hardware .waitStart false w = .sof) ∧
    (w ≠ 0x7E#8 → symbolAt Config.hardware .waitStart false w = .drop) ∧
    (∀ st : RxState, st.isContent = true →
      symbolAt Config.hardware st true w = .xlit ∧
      (w = 0x7D#8 → symbolAt Config.hardware st false w = .esc) ∧
      (w ≠ 0x7D#8 → symbolAt Config.hardware st false w = .lit) ∧
      symbolAt Config.hardware.rawVariant st false w = .lit) ∧
    (w = 0x7E#8 → symbolAt Config.hardware .expectEnd false w = .eof) ∧
    (w ≠ 0x7E#8 → symbolAt Config.hardware .expectEnd false w = .badeof)

/-- Reading a wire byte in any context gives a well-formed row whose encoding is that byte (rules R77, R83: no wire byte is illegal). -/
def Obligations.EveryWireByteHasItsSymbol : Prop :=
  ∀ (st : RxState) (p : Bool) (w : Byte),
    (decodeSymbol Config.hardware st p w).wf = true ∧
      encode (decodeSymbol Config.hardware st p w) = some [w]

/-- Words written out from the spec's tables decode to the rows they stand for: the wire items of rule R75, the vectors V42 and V20, and the one-byte rows (opcode_table.json). -/
def Obligations.SampleWordsDecode : Prop :=
  decode [0x7D#8, 0x5E#8] = .ok (.itemEsc7E, []) ∧
  decode [0x7D#8, 0x5D#8] = .ok (.itemEsc7D, []) ∧
  decode [0x41#8] = .ok (.itemPlain 0x41#8, []) ∧
  decode [0x7D#8, 0x21#8] = .ok (.itemNoncanon 0x21#8, []) ∧
  decode [0x7E#8, 0x01#8, 0x03#8, 0x00#8, 0x00#8, 0x00#8, 0x7D#8, 0x5E#8, 0x01#8, 0x7D#8, 0x5D#8,
      0xF0#8, 0xBC#8, 0xA0#8, 0xF1#8, 0x7E#8] =
    .ok (.frame 0x01#8 [0x7E#8, 0x01#8, 0x7D#8], []) ∧
  decodeTableWord 8 0x7E = some .sof ∧
  decodeTableWord 8 0x7D = some .esc ∧
  decodeTableWord 8 0x41 = some (.drop 0x41#8) ∧
  decodeTableWord 16 0x7D5E = some .itemEsc7E ∧
  decodeTableWord 16 0x7D5D = some .itemEsc7D ∧
  decodeTableWord 16 0x7D00 = some (.itemNoncanon 0x00#8)

/-- Decode of encode is the identity on every well-formed wire item and frame, whatever bytes follow (rules R70, R75, R78). -/
def Obligations.DecodeOfEncodeIsIdentity : Prop :=
  ∀ (i : Instr) (bs rest : List Byte),
    i.wf = true → isWireString i = true → encode i = some bs → decode (bs ++ rest) = .ok (i, rest)

/-- What the wire-string decoder accepts is exactly an encoding followed by the rest it gives back: no bit of an accepted item or frame is free (rules R70, R71, R73, R75). -/
def Obligations.AcceptedWireStringsAreEncodings : Prop :=
  ∀ (ws rest : List Byte) (i : Instr),
    decode ws = .ok (i, rest) →
      i.wf = true ∧ isWireString i = true ∧ ∃ bs, encode i = some bs ∧ ws = bs ++ rest

/-- The size and the delimiters of a frame (rules R76, R164): `11 + L + e` wire bytes, exactly two of them 0x7E, the first and the last. -/
def Obligations.FrameLengthAndDelimiters : Prop :=
  ∀ (t : Byte) (p : List Byte), p.length < 2 ^ 32 →
    (frameBytes t p).length =
      11 + p.length +
        (frameLogical t (BitVec.ofNat 32 p.length) p).countP
          (fun b => b == frameDelim || b == escapeMark) ∧
    (frameBytes t p).count frameDelim = 2 ∧
    (frameBytes t p).head? = some frameDelim ∧ (frameBytes t p).getLast? = some frameDelim

/-! ### The parser, state by state -/

/-- SOF (rule R133): in WAIT_START the byte 0x7E moves the parser to READ_TYPE and changes nothing else, by either row. -/
def Obligations.SofResult : Prop :=
  ∀ s : State, s.rxState = .waitStart →
    exec .sof s = .next { s with rxState := .readType } ∧
    exec (.rxStep 0x7E#8) s = .next { s with rxState := .readType }

/-- DROP (rule R134): in WAIT_START every byte but 0x7E changes nothing at all (that 0x7D is one of them is the spec's decision D11). -/
def Obligations.DropResult : Prop :=
  ∀ (w : Byte) (s : State), s.rxState = .waitStart → w ≠ 0x7E#8 →
    exec (.drop w) s = .next s ∧ exec (.rxStep w) s = .next s

/-- The unescape stage (rule R132): ESC sets the flag and nothing else; XLIT clears it and hands `w ^ 0x20` to LOGICAL; LIT hands `w` to LOGICAL with the flag as it was. -/
def Obligations.UnescapeStageResult : Prop :=
  ∀ (w : Byte) (s : State), s.rxState.isContent = true →
    (s.rxEsc = false →
      exec .esc s = .next { s with rxEsc := true } ∧
      exec (.rxStep 0x7D#8) s = .next { s with rxEsc := true }) ∧
    (s.rxEsc = true →
      exec (.xlit w) s = logicalByte Config.hardware (w ^^^ 0x20#8) { s with rxEsc := false } ∧
      exec (.rxStep w) s = logicalByte Config.hardware (w ^^^ 0x20#8) { s with rxEsc := false }) ∧
    (s.rxEsc = false → w ≠ 0x7D#8 →
      exec (.lit w) s = logicalByte Config.hardware w s ∧
      exec (.rxStep w) s = logicalByte Config.hardware w s)

/-- READ_TYPE (rule R136): whichever row delivers the logical byte, the type is taken, the session is reset, the CRC seeded and folded, and nothing else changes (the buffer and its cursor least of all). -/
def Obligations.TypeByteResult : Prop :=
  ∀ (i : Instr) (b : Byte) (s : State), s.rxState = .readType → s.delivered i = some b →
    exec i s =
      .next { s with
        rxType := b, rxLen := 0#32, rxLenCnt := 0#3, rxSum := 0#32, rxSumCnt := 0#3,
        rxRead := 0#32, rxCrc := crcUpdateFn 0xFFFFFFFF#32 b, rxState := .readLength,
        rxEsc := false }

/-- READ_LENGTH (rule R138): a length byte lands in its lane and is folded; after the fourth, START with the declared length, the cursor to 0 and READ_DATA, whatever the length. -/
def Obligations.LengthByteResult : Prop :=
  ∀ (i : Instr) (b : Byte) (s : State), s.rxState = .readLength → s.delivered i = some b →
    (s.rxLenCnt < 3#3 →
      exec i s =
        .next { s with
          rxLen := s.rxLen ||| (b.setWidth 32 <<< (8 * s.rxLenCnt.toNat)),
          rxLenCnt := s.rxLenCnt + 1#3, rxCrc := crcUpdateFn s.rxCrc b, rxEsc := false }) ∧
    (s.rxLenCnt = 3#3 →
      exec i s =
        .next { s with
          rxLen := s.rxLen ||| (b.setWidth 32 <<< 24),
          rxLenCnt := 4#3, rxCrc := crcUpdateFn s.rxCrc b, rxEsc := false,
          events := s.events ++ [.start s.rxType (s.rxLen ||| (b.setWidth 32 <<< 24))],
          rxBufN := 0, rxState := .readData })

/-- READ_DATA with `rx_read < rx_len` (rule R141): the byte is folded, stored at `BUF[rx_buf_n]` and counted; when the buffer is full or the payload complete there is one DATA event with the bytes collected and the cursor goes to 0; when the payload is complete the state is READ_CRC; every other register, port and byte of BUF is unchanged. -/
def Obligations.PayloadByteResult : Prop :=
  ∀ (i : Instr) (b : Byte) (s : State), s.rxState = .readData → s.delivered i = some b →
    s.rxRead < s.rxLen → s.rxBufN < 256 → s.rxBuf.wf = true →
    ∃ t : State, exec i s = .next t ∧
      t.rxCrc = crcUpdateFn s.rxCrc b ∧
      t.rxRead = s.rxRead + 1#32 ∧
      t.rxBuf.read s.rxBufN = b ∧
      (∀ a, a ≠ s.rxBufN → t.rxBuf.read a = s.rxBuf.read a) ∧
      t.rxBufN =
        (if s.rxBufN + 1 = 256 ∨ s.rxRead + 1#32 = s.rxLen then 0 else s.rxBufN + 1) ∧
      t.events =
        s.events ++
          (if s.rxBufN + 1 = 256 ∨ s.rxRead + 1#32 = s.rxLen then
            [.data s.rxType (s.rxBufN + 1) ((List.range s.rxBufN).map s.rxBuf.read ++ [b])]
          else []) ∧
      t.rxState = (if s.rxRead + 1#32 = s.rxLen then .readCrc else .readData) ∧
      t.rxEsc = false ∧ t.rxType = s.rxType ∧ t.rxLen = s.rxLen ∧ t.rxLenCnt = s.rxLenCnt ∧
      t.rxSum = s.rxSum ∧ t.rxSumCnt = s.rxSumCnt ∧ sameOutsideRx s t

/-- READ_CRC, and READ_DATA when no payload byte is due (rules R143, R144): the byte lands in its lane of the received checksum; nothing is folded, stored or emitted; the fourth byte leads to EXPECT_END. -/
def Obligations.ChecksumByteResult : Prop :=
  ∀ (i : Instr) (b : Byte) (s : State), s.delivered i = some b →
    (s.rxState = .readCrc ∨ (s.rxState = .readData ∧ ¬ s.rxRead < s.rxLen)) →
    (s.rxSumCnt < 3#3 →
      exec i s =
        .next { s with
          rxSum := s.rxSum ||| (b.setWidth 32 <<< (8 * s.rxSumCnt.toNat)),
          rxSumCnt := s.rxSumCnt + 1#3, rxState := .readCrc, rxEsc := false }) ∧
    (s.rxSumCnt = 3#3 →
      exec i s =
        .next { s with
          rxSum := s.rxSum ||| (b.setWidth 32 <<< 24),
          rxSumCnt := 4#3, rxState := .expectEnd, rxEsc := false })

/-- The zero-length path (rule R140, the spec's decision D12): in READ_DATA with an empty payload the first logical byte is the first checksum byte, with no DATA event and no fold. -/
def Obligations.EmptyPayloadTakesChecksum : Prop :=
  ∀ (i : Instr) (b : Byte) (s : State), s.rxState = .readData → s.delivered i = some b →
    s.rxLen = 0#32 → s.rxRead = 0#32 → s.rxSum = 0#32 → s.rxSumCnt = 0#3 →
    exec i s =
      .next { s with
        rxSum := b.setWidth 32, rxSumCnt := 1#3, rxState := .readCrc, rxEsc := false }

/-- EXPECT_END (rule R146; that nothing else is written is the spec's decisions D15, D16): FINISHED with the verdict, then WAIT_START whatever the byte; EOF gives the checksum's verdict, BADEOF gives 0. -/
def Obligations.EndOfFrameResult : Prop :=
  ∀ (w : Byte) (s : State), s.rxState = .expectEnd →
    exec .eof s =
      .next { s with
        events := s.events ++
          [.finished s.rxType (decide (s.rxSumCnt = 4#3 ∧ s.rxCrc ^^^ 0xFFFFFFFF#32 = s.rxSum))],
        rxState := .waitStart } ∧
    (w ≠ 0x7E#8 →
      exec (.badeof w) s =
        .next { s with
          events := s.events ++ [.finished s.rxType false], rxState := .waitStart }) ∧
    exec (.rxStep w) s =
      .next { s with
        events := s.events ++
          [.finished s.rxType
            (decide (s.rxSumCnt = 4#3 ∧ s.rxCrc ^^^ 0xFFFFFFFF#32 = s.rxSum ∧ w = 0x7E#8))],
        rxState := .waitStart }

/-- RX.STEP is the meaning of the wire symbol its byte is read as, in every state (rules R77, R131). -/
def Obligations.RxStepRunsItsSymbol : Prop :=
  ∀ (w : Byte) (s : State),
    exec (.rxStep w) s = exec (decodeSymbol Config.hardware s.rxState s.rxEsc w) s

/-- Every well-formed wire row means the delivery of its bytes to RX.STEP, in every state (rule R86; for a symbol met outside its own context this is the model's choice, assumption 8). -/
def Obligations.WireRowsDeliverTheirBytes : Prop :=
  ∀ (i : Instr) (bs : List Byte) (s : State),
    i.wf = true → encode i = some bs → exec i s = rxBytes Config.hardware bs s

/-- The transition table of rule R151: source state, condition, target state and event of every RX.STEP from a state that meets the invariant. -/
def Obligations.TransitionTable : Prop :=
  ∀ (w : Byte) (s t : State), s.Inv Config.hardware → exec (.rxStep w) s = .next t →
    (s.rxState = .waitStart ∧ w = frameDelim ∧ t.rxState = .readType ∧ t.events = s.events) ∨
    (s.rxState = .waitStart ∧ w ≠ frameDelim ∧ t.rxState = .waitStart ∧ t.events = s.events) ∨
    (s.rxState.isContent = true ∧ s.rxEsc = false ∧ w = escapeMark ∧ t.rxState = s.rxState ∧
      t.events = s.events) ∨
    (∃ b, s.delivered (.rxStep w) = some b ∧
      ((s.rxState = .readType ∧ t.rxState = .readLength ∧ t.events = s.events) ∨
       (s.rxState = .readLength ∧ 1#3 ≤ t.rxLenCnt ∧ t.rxLenCnt ≤ 3#3 ∧
          t.rxState = .readLength ∧ t.events = s.events) ∨
       (s.rxState = .readLength ∧ t.rxLenCnt = 4#3 ∧ t.rxState = .readData ∧
          t.events = s.events ++ [.start t.rxType t.rxLen]) ∨
       (s.rxState = .readData ∧ s.rxRead < s.rxLen ∧ s.rxRead + 1#32 < s.rxLen ∧
          s.rxBufN + 1 ≠ 256 ∧ t.rxState = .readData ∧ t.events = s.events) ∨
       (s.rxState = .readData ∧ s.rxRead < s.rxLen ∧ s.rxRead + 1#32 < s.rxLen ∧
          s.rxBufN + 1 = 256 ∧ t.rxState = .readData ∧
          ∃ bytes, t.events = s.events ++ [.data t.rxType 256 bytes]) ∨
       (s.rxState = .readData ∧ s.rxRead < s.rxLen ∧ s.rxRead + 1#32 = s.rxLen ∧
          t.rxState = .readCrc ∧
          ∃ bytes, t.events = s.events ++ [.data t.rxType (s.rxBufN + 1) bytes]) ∨
       (s.rxState = .readData ∧ s.rxLen = 0#32 ∧ t.rxState = .readCrc ∧ t.events = s.events) ∨
       (s.rxState = .readCrc ∧ 1#3 ≤ t.rxSumCnt ∧ t.rxSumCnt ≤ 3#3 ∧ t.rxState = .readCrc ∧
          t.events = s.events) ∨
       (s.rxState = .readCrc ∧ t.rxSumCnt = 4#3 ∧ t.rxState = .expectEnd ∧
          t.events = s.events))) ∨
    (s.rxState = .expectEnd ∧ t.rxState = .waitStart ∧
      ∃ v, t.events = s.events ++ [.finished t.rxType v])

/-- One RX.STEP emits at most one event, from any state (rule R147). -/
def Obligations.AtMostOneEventPerStep : Prop :=
  ∀ (cfg : Config) (w : Byte) (s t : State), rxByte cfg w s = .next t →
    t.events = s.events ∨ ∃ e, t.events = s.events ++ [e]

/-- Garbage without a delimiter is dropped byte by byte and leaves the parser exactly as it was, so a frame after it is read as if it came first (rules R134, R189). -/
def Obligations.GarbageWithoutDelimiterIsDropped : Prop :=
  ∀ (cfg : Config) (g ws : List Byte) (s : State),
    s.rxState = .waitStart → frameDelim ∉ g →
    rxBytes cfg g s = .next s ∧ rxBytes cfg (g ++ ws) s = rxBytes cfg ws s

/-- The variant RX_UNESCAPE = false (rule R152): in a content state every wire byte is the logical byte and rx_esc is never set, and a frame whose logical bytes contain neither 0x7E nor 0x7D is parsed identically under both values. -/
def Obligations.RawVariantBehaviour : Prop :=
  ∀ (cfg : Config) (s : State),
    (∀ w : Byte, s.rxState.isContent = true →
      rxByte cfg.rawVariant w s = logicalByte cfg.rawVariant w { s with rxEsc := false }) ∧
    (∀ (w : Byte) (t : State), s.rxEsc = false → rxByte cfg.rawVariant w s = .next t →
      t.rxEsc = false) ∧
    (∀ (t : Byte) (p : List Byte), s.rxEsc = false → p.length < 2 ^ 32 →
      frameDelim ∉ frameLogical t (BitVec.ofNat 32 p.length) p →
      escapeMark ∉ frameLogical t (BitVec.ofNat 32 p.length) p →
      rxBytes cfg.rawVariant (frameBytes t p) s =
        rxBytes { cfg with rxUnescape := true } (frameBytes t p) s)

/-! ### Frames of the receiving rows -/

/-- The frame of a one-byte receiving row: nothing outside the RX agent changes, and every byte of BUF but the one at the computed store index reads as before (rules R51, R64, R141). -/
def Obligations.OneByteReceiveFrame : Prop :=
  ∀ (i : Instr) (w : Byte) (s t : State),
    i.wf = true → (i = .rxStep w ∨ encode i = some [w]) → s.rxBuf.wf = true →
    exec i s = .next t →
      sameOutsideRx s t ∧
      ∀ a, some a ≠ s.storeIndex Config.hardware w → t.rxBuf.read a = s.rxBuf.read a

/-- No receiving row touches the serializer, the function ports' results or the host's sequence (rule R64). -/
def Obligations.ReceivingLeavesTheRestAlone : Prop :=
  ∀ (i : Instr) (s t : State), isReceive i = true → exec i s = .next t → sameOutsideRx s t

/-! ### The serializer -/

/-- TX.SEND (rules R162, R163): the frame's wire bytes join the TX stream, tx_crc holds the un-finalized accumulator of the covered bytes, and nothing else changes. -/
def Obligations.TxSendResult : Prop :=
  ∀ (t : Byte) (len : Word) (p : List Byte) (s : State), p.length = len.toNat →
    exec (.txSend t len p) s =
      .next { s with
        txCrc := crcFold 0xFFFFFFFF#32 (t :: (le32 len ++ p)),
        txOut := s.txOut ++
          0x7E#8 :: (stuffEncAll
            (t :: (le32 len ++ p ++
              le32 (crcFinalize (crcFold 0xFFFFFFFF#32 (t :: (le32 len ++ p))))))
            ++ [0x7E#8]) }

/-- Where the two ill-formed forms stop, by name and with nothing done: a payload that is not `len` bytes, and a frame that rule R161 says cannot be expressed (the stop is the model's choice, assumption 13). -/
def Obligations.WrongPayloadLengthIsRefused : Prop :=
  ∀ (t : Byte) (len : Word) (p : List Byte) (s : State),
    (p.length ≠ len.toNat → exec (.txSend t len p) s = .refused .payloadLength) ∧
    (2 ^ 32 ≤ p.length → exec (.frame t p) s = .refused .payloadLength)

/-- A receiving row and a TX.SEND may be taken in either order with the same result (rule R64, the spec's decision D13). -/
def Obligations.ReceiveAndSendCommute : Prop :=
  ∀ (i : Instr) (t : Byte) (len : Word) (p : List Byte) (s : State),
    isReceive i = true → p.length = len.toNat →
    Result.andThen (exec i s) (exec (.txSend t len p)) =
      Result.andThen (exec (.txSend t len p) s) (exec i)

/-! ### Events and RESET -/

/-- The event rows (rules R148 to R150): one event with the registers' values and no other change; with nothing collected EV.DATA emits nothing (the model's choice, assumption 11). -/
def Obligations.EventRowResults : Prop :=
  ∀ s : State,
    exec .evStart s = .next { s with events := s.events ++ [.start s.rxType s.rxLen] } ∧
    (1 ≤ s.rxBufN → s.rxBufN ≤ 256 →
      exec .evData s =
        .next { s with
          events := s.events ++
            [.data s.rxType s.rxBufN ((List.range s.rxBufN).map s.rxBuf.read)] }) ∧
    (s.rxBufN = 0 → exec .evData s = .next s) ∧
    ∀ v : Bool,
      exec (.evFinished v) s = .next { s with events := s.events ++ [.finished s.rxType v] }

/-- RESET (rules R43, R210, the spec's decision D8): every register and every byte of BUF takes its reset value, no event is emitted and no byte is written. -/
def Obligations.ResetResult : Prop :=
  ∀ s : State, ∃ t : State, exec .reset s = .next t ∧
    t.rxState = .waitStart ∧ t.rxEsc = false ∧ t.rxType = 0#8 ∧ t.rxLen = 0#32 ∧
    t.rxLenCnt = 0#3 ∧ t.rxRead = 0#32 ∧ t.rxCrc = 0#32 ∧ t.rxSum = 0#32 ∧ t.rxSumCnt = 0#3 ∧
    (∀ a, t.rxBuf.read a = 0#8) ∧ t.rxBufN = 0 ∧ t.txCrc = 0#32 ∧
    t.events = s.events ∧ t.txOut = s.txOut ∧ t.crcOut = s.crcOut ∧ t.codecOut = s.codecOut ∧
    t.pending = s.pending

/-! ### The chunk buffer -/

/-- `MemWrite(BUF[i], 1, v)` (rule R51): the byte reads back, every other byte and every other part of the state is unchanged, and the list stays in canonical form and within the capacity. -/
def Obligations.BufferWriteLaw : Prop :=
  ∀ (cfg : Config) (i : Nat) (v : Byte) (s : State), i < cfg.chunkCap → s.rxBuf.wf = true →
    s.rxBuf.within cfg.chunkCap = true →
    ∃ t : State, bufWrite cfg i v s = .next t ∧ t.rxBuf.read i = v ∧
      (∀ a, a ≠ i → t.rxBuf.read a = s.rxBuf.read a) ∧
      t.rxBuf.wf = true ∧ t.rxBuf.within cfg.chunkCap = true ∧
      { t with rxBuf := s.rxBuf } = s

/-- Where an index outside BUF faults, in states no run reaches (rule R51 says there is no such access; the fault is the model's choice, assumption 12). -/
def Obligations.OutOfRangeBufferFaults : Prop :=
  ∀ (i : Instr) (b : Byte) (s : State),
    (s.rxState = .readData → s.delivered i = some b → s.rxRead < s.rxLen → 256 ≤ s.rxBufN →
      exec i s = .fault .bufIndexOutOfRange) ∧
    (256 < s.rxBufN → exec .evData s = .fault .bufIndexOutOfRange)

/-! ### Steps -/

/-- A step runs the host's next operation, and with nothing issued the block is idle and keeps its state (rules R197, R232; the sequence as a list in State is assumption 4). -/
def Obligations.StepRunsTheNextOperation : Prop :=
  ∀ (s : State),
    (∀ (i : Instr) (rest : List Instr), s.pending = i :: rest →
      step s = exec i { s with pending := rest }) ∧
    (s.pending = [] → step s = .next s)

/-- A table word placed for the next step runs the instruction it decodes to, in the context that instruction is read in (assumptions 17 to 19). -/
def Obligations.PlacedWordRunsNext : Prop :=
  ∀ (s : State) (nbits w : Nat) (i : Instr), decodeTableWord nbits w = some i →
    step (s.withFetchWord nbits w) = exec i (enterContext i s)

/-! ### Invariants -/

/-- The reset state meets the invariant of rule R41. -/
def Obligations.InvHoldsAtReset : Prop := State.reset.Inv Config.hardware

/-- Every step keeps the invariant of rule R41, whatever the host issues. -/
def Obligations.StepKeepsInv : Prop :=
  ∀ s t : State, s.Inv Config.hardware → step s = .next t → t.Inv Config.hardware

/-- No operation can fail (rules R130, R167, R180): from a state that meets the invariant every well-formed row completes, in a state that meets it. -/
def Obligations.NoOperationFails : Prop :=
  ∀ (i : Instr) (s : State), i.wf = true → s.Inv Config.hardware →
    ∃ t : State, exec i s = .next t ∧ t.Inv Config.hardware

/-- RX.STEP completes and keeps the invariant for every build: every CHUNK_CAP of at least 1 and both values of RX_UNESCAPE (rules R8, R41, R130). -/
def Obligations.RxByteTotalForEveryBuild : Prop :=
  ∀ (cfg : Config) (w : Byte) (s : State), cfg.wf → s.Inv cfg →
    ∃ t : State, rxByte cfg w s = .next t ∧ t.Inv cfg

/-! ### Whole packets -/

/-- The chunking law (rule R142): the chunks of a payload are its bytes in order, `ceil(L / CHUNK_CAP)` of them, all of CHUNK_CAP bytes but the last, which is not empty and carries the rest. -/
def Obligations.ChunkingLaw : Prop :=
  ∀ (cap : Nat) (p : List Byte), 1 ≤ cap →
    (chunks cap p).flatten = p ∧
    (chunks cap p).length = (p.length + cap - 1) / cap ∧
    (∀ k c, k + 1 < (chunks cap p).length → (chunks cap p)[k]? = some c → c.length = cap) ∧
    (∀ c, (chunks cap p).getLast? = some c →
      1 ≤ c.length ∧ c.length + cap * ((chunks cap p).length - 1) = p.length)

/-- Round trip (rule R168), for every build that un-stuffs: the bytes TX.SEND writes, fed to a parser between packets, yield START, the chunks of the payload, FINISHED with valid = 1, and leave the parser between packets. -/
def Obligations.SentFramesAreReceived : Prop :=
  ∀ (cfg : Config) (t : Byte) (len : Word) (p : List Byte) (s r : State),
    cfg.wf → cfg.rxUnescape = true → p.length = len.toNat → r.idle → r.rxBuf.wf = true →
    ∃ (ws : List Byte) (s' r' : State),
      exec (.txSend t len p) s = .next s' ∧ s'.txOut = s.txOut ++ ws ∧
      rxBytes cfg ws r = .next r' ∧
      r'.events = r.events ++ packetEvents cfg.chunkCap t len p true ∧ r'.idle

/-- The FRAME row, met between packets: the whole packet is delivered and found valid, and nothing outside the RX agent changes (rules R70, R168). -/
def Obligations.FrameRowDeliversItsPacket : Prop :=
  ∀ (t : Byte) (p : List Byte) (s : State),
    p.length < 2 ^ 32 → s.idle → s.rxBuf.wf = true →
    ∃ s' : State, exec (.frame t p) s = .next s' ∧
      s'.events =
        s.events ++ packetEvents 256 t (BitVec.ofNat 32 p.length) p true ∧
      s'.idle ∧ s'.rxType = t ∧ s'.rxLen = BitVec.ofNat 32 p.length ∧
      s'.rxRead = BitVec.ofNat 32 p.length ∧
      s'.rxSum = crcFinalize s'.rxCrc ∧ sameOutsideRx s s'

/-- Acceptance, the "if" of rule R155: any wire string between two delimiters that un-stuffs to a type, a length, that many payload bytes and their checksum is delivered and found valid, canonically stuffed or not. -/
def Obligations.ValidWireStringsAreAccepted : Prop :=
  ∀ (cfg : Config) (x : List Byte) (t : Byte) (len : Word) (p : List Byte) (s : State),
    cfg.wf → cfg.rxUnescape = true → s.idle → s.rxBuf.wf = true → p.length = len.toNat →
    stuffDecAll false x = (false, frameLogical t len p) →
    ∃ s' : State, rxBytes cfg (frameDelim :: (x ++ [frameDelim])) s = .next s' ∧
      s'.events = s.events ++ packetEvents cfg.chunkCap t len p true ∧ s'.idle

/-- Acceptance, the "only if" of rule R155: if the string between two delimiters is consumed as exactly one packet and found valid, it un-stuffs to that packet's type, length, payload and checksum. -/
def Obligations.AcceptedWireStringsAreValid : Prop :=
  ∀ (cfg : Config) (x : List Byte) (t : Byte) (len : Word) (ds : List Event) (s s' : State),
    cfg.wf → cfg.rxUnescape = true → s.idle → s.rxBuf.wf = true →
    rxBytes cfg (frameDelim :: (x ++ [frameDelim])) s = .next s' → s'.rxState = .waitStart →
    (∀ e ∈ ds, ∃ ty n bs, e = .data ty n bs) →
    s'.events = s.events ++ .start t len :: (ds ++ [.finished t true]) →
    ∃ p : List Byte, p.length = len.toNat ∧
      stuffDecAll false x = (false, frameLogical t len p) ∧
      .start t len :: (ds ++ [.finished t true]) = packetEvents cfg.chunkCap t len p true

/-- The event grammar (rule R156): whatever bytes arrive, the events a parser emits from a state that meets the invariant continue the sequence of START DATA* FINISHED groups where that state stands in it. -/
def Obligations.EventsFollowTheGrammar : Prop :=
  ∀ (cfg : Config) (ws : List Byte) (s : State), cfg.wf → s.Inv cfg →
    ∃ (t : State) (es : List Event), rxBytes cfg ws s = .next t ∧ t.events = s.events ++ es ∧
      eventsFrom cfg.chunkCap s.eventPos es = some t.eventPos

/-- The values left in the session registers and the buffer never reach the event port (rule R42): two parsers between packets, whatever else they hold, answer every wire string with the same events. -/
def Obligations.SessionValuesNeverShow : Prop :=
  ∀ (cfg : Config) (ws : List Byte) (s1 s2 : State), cfg.wf → s1.idle → s2.idle →
    s1.rxBuf.wf = true → s2.rxBuf.wf = true →
    ∃ (t1 t2 : State) (es : List Event),
      rxBytes cfg ws s1 = .next t1 ∧ rxBytes cfg ws s2 = .next t2 ∧
      t1.events = s1.events ++ es ∧ t2.events = s2.events ++ es

/-- A packet is counted out, not escaped from (rules R154, R187, R222): from READ_DATA, without markers on the wire, the parser is back in WAIT_START after exactly the missing payload bytes, four checksum bytes and one more, and not before. -/
def Obligations.PacketIsCountedOut : Prop :=
  ∀ (cfg : Config) (ws : List Byte) (s : State), cfg.wf → s.Inv cfg → s.rxState = .readData →
    s.rxEsc = false → escapeMark ∉ ws → ws.length = (s.rxLen - s.rxRead).toNat + 5 →
    (∃ t : State, rxBytes cfg ws s = .next t ∧ t.rxState = .waitStart) ∧
    ∀ k, k < ws.length →
      ∃ u : State, rxBytes cfg (ws.take k) s = .next u ∧ u.rxState ≠ .waitStart
end

