-- ==== Sys2Proof/Laws/Codec.lean ====
section
/-! SUPPORT. Laws/Codec.lean: the codec's functions case by case, one byte and sequences. -/

namespace Sys2Proof.Machine

@[simp] theorem stuffDecFn_true (w : Byte) : stuffDecFn true w = (false, some (w ^^^ escapeMask)) := rfl

@[simp] theorem stuffDecFn_mark : stuffDecFn false escapeMark = (true, none) := rfl

theorem stuffDecFn_plain (w : Byte) (h : w ≠ escapeMark) : stuffDecFn false w = (false, some w) := by
  simp [stuffDecFn, h]

/-- The three outcomes of the decoder (rule R122): XLIT, ESC, LIT. -/
theorem stuffDecFn_cases (p : Bool) (w : Byte) :
    (p = true ∧ stuffDecFn p w = (false, some (w ^^^ escapeMask))) ∨
    (p = false ∧ w = escapeMark ∧ stuffDecFn p w = (true, none)) ∨
    (p = false ∧ w ≠ escapeMark ∧ stuffDecFn p w = (false, some w)) := by
  cases p
  · by_cases h : w = escapeMark
    · exact .inr (.inl ⟨rfl, h, by rw [h]; rfl⟩)
    · exact .inr (.inr ⟨rfl, h, stuffDecFn_plain w h⟩)
  · exact .inl ⟨rfl, rfl⟩

theorem stuffEncFn_delim : stuffEncFn frameDelim = [escapeMark, 0x5E#8] := by decide

theorem stuffEncFn_mark : stuffEncFn escapeMark = [escapeMark, 0x5D#8] := by decide

theorem stuffEncFn_plain (b : Byte) (h1 : b ≠ frameDelim) (h2 : b ≠ escapeMark) :
    stuffEncFn b = [b] := by
  simp [stuffEncFn, h1, h2]

/-- The three output forms of the encoder (rule R120). -/
theorem stuffEncFn_cases (b : Byte) :
    (b = frameDelim ∧ stuffEncFn b = [escapeMark, 0x5E#8]) ∨
    (b = escapeMark ∧ stuffEncFn b = [escapeMark, 0x5D#8]) ∨
    (b ≠ frameDelim ∧ b ≠ escapeMark ∧ stuffEncFn b = [b]) := by
  by_cases h1 : b = frameDelim
  · exact .inl ⟨h1, by rw [h1]; exact stuffEncFn_delim⟩
  · by_cases h2 : b = escapeMark
    · exact .inr (.inl ⟨h2, by rw [h2]; exact stuffEncFn_mark⟩)
    · exact .inr (.inr ⟨h1, h2, stuffEncFn_plain b h1 h2⟩)

@[simp] theorem stuffEncAll_nil : stuffEncAll [] = [] := rfl

@[simp] theorem stuffEncAll_cons (b : Byte) (bs : List Byte) :
    stuffEncAll (b :: bs) = stuffEncFn b ++ stuffEncAll bs := by
  simp [stuffEncAll]

theorem stuffEncAll_append (u v : List Byte) :
    stuffEncAll (u ++ v) = stuffEncAll u ++ stuffEncAll v := by
  simp [stuffEncAll]

@[simp] theorem stuffDecAll_nil (p : Bool) : stuffDecAll p [] = (p, []) := rfl

theorem stuffDecAll_cons (p : Bool) (w : Byte) (ws : List Byte) :
    stuffDecAll p (w :: ws) =
      ((stuffDecAll (stuffDecFn p w).1 ws).1,
        (stuffDecFn p w).2.toList ++ (stuffDecAll (stuffDecFn p w).1 ws).2) := rfl

/-- The stage with un-stuffing is the codec's decoder (rule R132). -/
theorem unescapeStage_on (cfg : Config) (p : Bool) (w : Byte) (h : cfg.rxUnescape = true) :
    unescapeStage cfg p w = stuffDecFn p w := by
  simp [unescapeStage, h]

/-- The stage without it is the identity (rule R152). -/
theorem unescapeStage_off (cfg : Config) (p : Bool) (w : Byte) (h : cfg.rxUnescape = false) :
    unescapeStage cfg p w = (false, some w) := by
  simp [unescapeStage, h]

/-- A stage that delivers a byte leaves no escape pending. -/
theorem unescapeStage_clears {cfg : Config} {p : Bool} {w b : Byte}
    (h : (unescapeStage cfg p w).2 = some b) : (unescapeStage cfg p w).1 = false := by
  unfold unescapeStage at *
  split at h
  · next hc =>
    rw [if_pos hc]
    rcases stuffDecFn_cases p w with ⟨-, e⟩ | ⟨-, -, e⟩ | ⟨-, -, e⟩ <;> rw [e] at h ⊢
    cases h
  · next hc => rw [if_neg hc]

end Sys2Proof.Machine
end

