-- ==== Sys2Proof/Laws/Crc.lean ====
section
/-! SUPPORT. Laws/Crc.lean: the ROM against the table function, and the linearity of the shift loop over XOR (rule R105). -/

namespace Sys2Proof.Machine

/-- Every entry of CRC_T is the value of the table function (rule R33). -/
theorem tblRead_eq_crcTableFn (n : Byte) : tblRead n = crcTableFn n := by
  revert n
  decide

@[simp] theorem crcFold_nil (c : Word) : crcFold c [] = c := rfl

@[simp] theorem crcFold_cons (c : Word) (b : Byte) (bs : List Byte) :
    crcFold c (b :: bs) = crcFold (crcUpdateFn c b) bs := rfl

theorem crcFold_append (c : Word) (u v : List Byte) :
    crcFold c (u ++ v) = crcFold (crcFold c u) v := by
  simp [crcFold]

/-- One iteration is linear over XOR. -/
theorem crcShiftOne_xor (x y : Word) : crcShiftOne (x ^^^ y) = crcShiftOne x ^^^ crcShiftOne y := by
  unfold crcShiftOne
  simp only [BitVec.getLsbD_xor, BitVec.ushiftRight_xor_distrib]
  cases x.getLsbD 0 <;> cases y.getLsbD 0 <;> simp only [Bool.xor_false, Bool.false_xor,
    Bool.xor_self, Bool.false_eq_true, if_true, if_false]
  · ac_rfl
  · ac_rfl
  · rw [show x >>> 1 ^^^ crcPoly ^^^ (y >>> 1 ^^^ crcPoly)
        = x >>> 1 ^^^ y >>> 1 ^^^ (crcPoly ^^^ crcPoly) by ac_rfl]
    simp

/-- The loop is linear over XOR. -/
theorem crcShift_xor (k : Nat) (x y : Word) :
    crcShift k (x ^^^ y) = crcShift k x ^^^ crcShift k y := by
  induction k generalizing x y with
  | zero => rfl
  | succ k ih => simp only [crcShift, crcShiftOne_xor, ih]

/-- Finalizing twice undoes the finalization (rule R103). -/
theorem crcFinalize_crcFinalize (c : Word) : crcFinalize (crcFinalize c) = c := by
  simp [crcFinalize]

end Sys2Proof.Machine
end

