-- ==== Sys2Proof/Laws/Memory.lean ====
section
/-! SUPPORT. Laws/Memory.lean: read after write, and that a write keeps the canonical form and the range of the byte memory. -/

namespace Sys2Proof.Machine

@[simp] theorem Memory.read_nil (a : Nat) : Memory.read [] a = 0#8 := rfl

theorem Memory.above_iff (a : Nat) (m : Memory) : Memory.above a m = true ↔ ∀ c ∈ m, a < c.1 := by
  simp [Memory.above]

theorem Memory.within_iff (cap : Nat) (m : Memory) :
    Memory.within cap m = true ↔ ∀ c ∈ m, c.1 < cap := by
  simp [Memory.within]

/-- The canonical form of a cons: no zero, everything after it higher, and the rest canonical. -/
theorem Memory.wf_cons (k : Nat) (v : Byte) (m : Memory) :
    Memory.wf ((k, v) :: m) = true ↔
      v ≠ 0#8 ∧ (∀ c ∈ m, k < c.1) ∧ Memory.wf m = true := by
  simp [Memory.wf, Memory.above_iff, and_assoc]

/-- Below every listed index a memory reads as 0. -/
theorem Memory.read_below (m : Memory) (a : Nat) (h : ∀ c ∈ m, a < c.1) : m.read a = 0#8 := by
  induction m with
  | nil => rfl
  | cons c rest ih =>
    obtain ⟨k, v⟩ := c
    have hk : a < k := h (k, v) (by simp)
    have hne : a ≠ k := by omega
    simp only [Memory.read, hne, if_false]
    exact ih fun c hc => h c (by simp [hc])

/-- What a write may list: the index written, or an entry that was there. -/
theorem Memory.mem_write {m : Memory} {a : Nat} {v : Byte} {c : Host.Cell}
    (h : c ∈ m.write a v) : c = (a, v) ∨ c ∈ m := by
  induction m with
  | nil =>
    simp only [Memory.write] at h
    split at h <;> simp_all
  | cons d rest ih =>
    obtain ⟨k, u⟩ := d
    simp only [Memory.write] at h
    split at h
    · split at h <;> simp_all
    · split at h
      · split at h
        · exact .inr (by simp [h])
        · rcases List.mem_cons.mp h with h | h
          · exact .inl h
          · exact .inr (by simp [h])
      · rcases List.mem_cons.mp h with h | h
        · exact .inr (by simp [h])
        · rcases ih h with h | h
          · exact .inl h
          · exact .inr (by simp [h])

/-- A write keeps the canonical form. -/
theorem Memory.write_wf (m : Memory) (a : Nat) (v : Byte) (h : m.wf = true) :
    (m.write a v).wf = true := by
  induction m with
  | nil =>
    simp only [Memory.write]
    split <;> simp_all [Memory.wf, Memory.above]
  | cons d rest ih =>
    obtain ⟨k, u⟩ := d
    obtain ⟨hu, hk, hr⟩ := (Memory.wf_cons k u rest).mp h
    simp only [Memory.write]
    split
    · split
      · exact h
      · refine (Memory.wf_cons _ _ _).mpr ⟨‹_›, ?_, h⟩
        intro c hc
        rcases List.mem_cons.mp hc with rfl | hc
        · assumption
        · have := hk c hc
          omega
    · split
      · split
        · exact hr
        · subst a
          exact (Memory.wf_cons _ _ _).mpr ⟨‹_›, hk, hr⟩
      · refine (Memory.wf_cons _ _ _).mpr ⟨hu, ?_, ih hr⟩
        intro c hc
        rcases Memory.mem_write hc with rfl | hc
        · simp only
          omega
        · exact hk c hc

/-- A write below the capacity keeps every listed index below it. -/
theorem Memory.write_within (m : Memory) (cap a : Nat) (v : Byte) (ha : a < cap)
    (h : m.within cap = true) : (m.write a v).within cap = true := by
  rw [Memory.within_iff] at h ⊢
  intro c hc
  rcases Memory.mem_write hc with rfl | hc
  · exact ha
  · exact h c hc

/-- Read after write to the same index. -/
theorem Memory.read_write_same (m : Memory) (a : Nat) (v : Byte) (h : m.wf = true) :
    (m.write a v).read a = v := by
  induction m with
  | nil =>
    simp only [Memory.write]
    split <;> simp_all [Memory.read]
  | cons d rest ih =>
    obtain ⟨k, u⟩ := d
    obtain ⟨-, hk, hr⟩ := (Memory.wf_cons k u rest).mp h
    simp only [Memory.write]
    split
    · split
      · subst v
        exact Memory.read_below _ _ fun c hc => by
          rcases List.mem_cons.mp hc with rfl | hc
          · assumption
          · have := hk c hc
            omega
      · simp [Memory.read]
    · split
      · split
        · subst a v
          exact Memory.read_below _ _ hk
        · simp [Memory.read]
      · simp only [Memory.read]
        simp [*]

/-- Read after write to another index. -/
theorem Memory.read_write_other (m : Memory) (a b : Nat) (v : Byte) (hne : b ≠ a)
    (h : m.wf = true) : (m.write a v).read b = m.read b := by
  induction m with
  | nil =>
    simp only [Memory.write]
    split <;> simp [Memory.read, hne]
  | cons d rest ih =>
    obtain ⟨k, u⟩ := d
    obtain ⟨-, hk, hr⟩ := (Memory.wf_cons k u rest).mp h
    simp only [Memory.write]
    split
    · split
      · rfl
      · simp [Memory.read, hne]
    · split
      · subst a
        split
        · simp [Memory.read, hne]
        · simp [Memory.read, hne]
      · simp only [Memory.read]
        split
        · rfl
        · exact ih hr

/-- Two canonical memories that read the same everywhere are the same list. -/
theorem Memory.ext_read (m n : Memory) (hm : m.wf = true) (hn : n.wf = true)
    (h : ∀ a, m.read a = n.read a) : m = n := by
  induction m generalizing n with
  | nil =>
    cases n with
    | nil => rfl
    | cons d rest =>
      obtain ⟨k, u⟩ := d
      obtain ⟨hu, -, -⟩ := (Memory.wf_cons k u rest).mp hn
      have := h k
      simp [Memory.read] at this
      exact absurd this.symm hu
  | cons d rest ih =>
    obtain ⟨k, u⟩ := d
    obtain ⟨hu, hk, hr⟩ := (Memory.wf_cons k u rest).mp hm
    cases n with
    | nil =>
      have := h k
      simp [Memory.read] at this
      exact absurd this hu
    | cons d' rest' =>
      obtain ⟨k', u'⟩ := d'
      obtain ⟨hu', hk', hr'⟩ := (Memory.wf_cons k' u' rest').mp hn
      have hkk : k = k' := by
        rcases Nat.lt_trichotomy k k' with hlt | heq | hgt
        · have h1 := h k
          rw [Memory.read_below ((k', u') :: rest') k] at h1
          · simp [Memory.read] at h1
            exact absurd h1 hu
          · intro c hc
            rcases List.mem_cons.mp hc with rfl | hc
            · exact hlt
            · have := hk' c hc
              omega
        · exact heq
        · have h1 := h k'
          rw [Memory.read_below ((k, u) :: rest) k'] at h1
          · simp [Memory.read] at h1
            exact absurd h1.symm hu'
          · intro c hc
            rcases List.mem_cons.mp hc with rfl | hc
            · exact hgt
            · have := hk c hc
              omega
      subst k'
      have huu : u = u' := by simpa [Memory.read] using h k
      subst u'
      rw [ih rest' hr hr' fun a => ?_]
      rcases Nat.lt_or_ge k a with hlt | hge
      · have hne : a ≠ k := by omega
        simpa [Memory.read, hne] using h a
      · rw [Memory.read_below rest a fun c hc => by have := hk c hc; omega,
          Memory.read_below rest' a fun c hc => by have := hk' c hc; omega]

end Sys2Proof.Machine
end

