-- ==== Sys2Proof/Laws/State.lean ====
section
/-! SUPPORT. Laws/State.lean: what each named update of State does to each field, so that no proof unfolds a record update. -/

namespace Sys2Proof.Machine

/-! ### emit -/

@[simp] theorem State.emit_rxState (e : Event) (s : State) : (s.emit e).rxState = s.rxState := rfl
@[simp] theorem State.emit_rxEsc (e : Event) (s : State) : (s.emit e).rxEsc = s.rxEsc := rfl
@[simp] theorem State.emit_rxType (e : Event) (s : State) : (s.emit e).rxType = s.rxType := rfl
@[simp] theorem State.emit_rxLen (e : Event) (s : State) : (s.emit e).rxLen = s.rxLen := rfl
@[simp] theorem State.emit_rxLenCnt (e : Event) (s : State) : (s.emit e).rxLenCnt = s.rxLenCnt := rfl
@[simp] theorem State.emit_rxRead (e : Event) (s : State) : (s.emit e).rxRead = s.rxRead := rfl
@[simp] theorem State.emit_rxCrc (e : Event) (s : State) : (s.emit e).rxCrc = s.rxCrc := rfl
@[simp] theorem State.emit_rxSum (e : Event) (s : State) : (s.emit e).rxSum = s.rxSum := rfl
@[simp] theorem State.emit_rxSumCnt (e : Event) (s : State) : (s.emit e).rxSumCnt = s.rxSumCnt := rfl
@[simp] theorem State.emit_rxBuf (e : Event) (s : State) : (s.emit e).rxBuf = s.rxBuf := rfl
@[simp] theorem State.emit_rxBufN (e : Event) (s : State) : (s.emit e).rxBufN = s.rxBufN := rfl
@[simp] theorem State.emit_txCrc (e : Event) (s : State) : (s.emit e).txCrc = s.txCrc := rfl
@[simp] theorem State.emit_pending (e : Event) (s : State) : (s.emit e).pending = s.pending := rfl
@[simp] theorem State.emit_events (e : Event) (s : State) : (s.emit e).events = s.events ++ [e] := rfl
@[simp] theorem State.emit_txOut (e : Event) (s : State) : (s.emit e).txOut = s.txOut := rfl
@[simp] theorem State.emit_crcOut (e : Event) (s : State) : (s.emit e).crcOut = s.crcOut := rfl
@[simp] theorem State.emit_codecOut (e : Event) (s : State) : (s.emit e).codecOut = s.codecOut := rfl

/-! ### write -/

@[simp] theorem State.write_rxState (b : Byte) (s : State) : (s.write b).rxState = s.rxState := rfl
@[simp] theorem State.write_rxEsc (b : Byte) (s : State) : (s.write b).rxEsc = s.rxEsc := rfl
@[simp] theorem State.write_rxType (b : Byte) (s : State) : (s.write b).rxType = s.rxType := rfl
@[simp] theorem State.write_rxLen (b : Byte) (s : State) : (s.write b).rxLen = s.rxLen := rfl
@[simp] theorem State.write_rxLenCnt (b : Byte) (s : State) : (s.write b).rxLenCnt = s.rxLenCnt := rfl
@[simp] theorem State.write_rxRead (b : Byte) (s : State) : (s.write b).rxRead = s.rxRead := rfl
@[simp] theorem State.write_rxCrc (b : Byte) (s : State) : (s.write b).rxCrc = s.rxCrc := rfl
@[simp] theorem State.write_rxSum (b : Byte) (s : State) : (s.write b).rxSum = s.rxSum := rfl
@[simp] theorem State.write_rxSumCnt (b : Byte) (s : State) : (s.write b).rxSumCnt = s.rxSumCnt := rfl
@[simp] theorem State.write_rxBuf (b : Byte) (s : State) : (s.write b).rxBuf = s.rxBuf := rfl
@[simp] theorem State.write_rxBufN (b : Byte) (s : State) : (s.write b).rxBufN = s.rxBufN := rfl
@[simp] theorem State.write_txCrc (b : Byte) (s : State) : (s.write b).txCrc = s.txCrc := rfl
@[simp] theorem State.write_pending (b : Byte) (s : State) : (s.write b).pending = s.pending := rfl
@[simp] theorem State.write_events (b : Byte) (s : State) : (s.write b).events = s.events := rfl
@[simp] theorem State.write_txOut (b : Byte) (s : State) : (s.write b).txOut = s.txOut ++ [b] := rfl
@[simp] theorem State.write_crcOut (b : Byte) (s : State) : (s.write b).crcOut = s.crcOut := rfl
@[simp] theorem State.write_codecOut (b : Byte) (s : State) : (s.write b).codecOut = s.codecOut := rfl

/-! ### writeAll -/

@[simp] theorem State.writeAll_rxState (bs : List Byte) (s : State) : (s.writeAll bs).rxState = s.rxState := rfl
@[simp] theorem State.writeAll_rxEsc (bs : List Byte) (s : State) : (s.writeAll bs).rxEsc = s.rxEsc := rfl
@[simp] theorem State.writeAll_rxType (bs : List Byte) (s : State) : (s.writeAll bs).rxType = s.rxType := rfl
@[simp] theorem State.writeAll_rxLen (bs : List Byte) (s : State) : (s.writeAll bs).rxLen = s.rxLen := rfl
@[simp] theorem State.writeAll_rxLenCnt (bs : List Byte) (s : State) : (s.writeAll bs).rxLenCnt = s.rxLenCnt := rfl
@[simp] theorem State.writeAll_rxRead (bs : List Byte) (s : State) : (s.writeAll bs).rxRead = s.rxRead := rfl
@[simp] theorem State.writeAll_rxCrc (bs : List Byte) (s : State) : (s.writeAll bs).rxCrc = s.rxCrc := rfl
@[simp] theorem State.writeAll_rxSum (bs : List Byte) (s : State) : (s.writeAll bs).rxSum = s.rxSum := rfl
@[simp] theorem State.writeAll_rxSumCnt (bs : List Byte) (s : State) : (s.writeAll bs).rxSumCnt = s.rxSumCnt := rfl
@[simp] theorem State.writeAll_rxBuf (bs : List Byte) (s : State) : (s.writeAll bs).rxBuf = s.rxBuf := rfl
@[simp] theorem State.writeAll_rxBufN (bs : List Byte) (s : State) : (s.writeAll bs).rxBufN = s.rxBufN := rfl
@[simp] theorem State.writeAll_txCrc (bs : List Byte) (s : State) : (s.writeAll bs).txCrc = s.txCrc := rfl
@[simp] theorem State.writeAll_pending (bs : List Byte) (s : State) : (s.writeAll bs).pending = s.pending := rfl
@[simp] theorem State.writeAll_events (bs : List Byte) (s : State) : (s.writeAll bs).events = s.events := rfl
@[simp] theorem State.writeAll_txOut (bs : List Byte) (s : State) : (s.writeAll bs).txOut = s.txOut ++ bs := rfl
@[simp] theorem State.writeAll_crcOut (bs : List Byte) (s : State) : (s.writeAll bs).crcOut = s.crcOut := rfl
@[simp] theorem State.writeAll_codecOut (bs : List Byte) (s : State) : (s.writeAll bs).codecOut = s.codecOut := rfl

/-! ### putCrc -/

@[simp] theorem State.putCrc_rxState (v : Word) (s : State) : (s.putCrc v).rxState = s.rxState := rfl
@[simp] theorem State.putCrc_rxEsc (v : Word) (s : State) : (s.putCrc v).rxEsc = s.rxEsc := rfl
@[simp] theorem State.putCrc_rxType (v : Word) (s : State) : (s.putCrc v).rxType = s.rxType := rfl
@[simp] theorem State.putCrc_rxLen (v : Word) (s : State) : (s.putCrc v).rxLen = s.rxLen := rfl
@[simp] theorem State.putCrc_rxLenCnt (v : Word) (s : State) : (s.putCrc v).rxLenCnt = s.rxLenCnt := rfl
@[simp] theorem State.putCrc_rxRead (v : Word) (s : State) : (s.putCrc v).rxRead = s.rxRead := rfl
@[simp] theorem State.putCrc_rxCrc (v : Word) (s : State) : (s.putCrc v).rxCrc = s.rxCrc := rfl
@[simp] theorem State.putCrc_rxSum (v : Word) (s : State) : (s.putCrc v).rxSum = s.rxSum := rfl
@[simp] theorem State.putCrc_rxSumCnt (v : Word) (s : State) : (s.putCrc v).rxSumCnt = s.rxSumCnt := rfl
@[simp] theorem State.putCrc_rxBuf (v : Word) (s : State) : (s.putCrc v).rxBuf = s.rxBuf := rfl
@[simp] theorem State.putCrc_rxBufN (v : Word) (s : State) : (s.putCrc v).rxBufN = s.rxBufN := rfl
@[simp] theorem State.putCrc_txCrc (v : Word) (s : State) : (s.putCrc v).txCrc = s.txCrc := rfl
@[simp] theorem State.putCrc_pending (v : Word) (s : State) : (s.putCrc v).pending = s.pending := rfl
@[simp] theorem State.putCrc_events (v : Word) (s : State) : (s.putCrc v).events = s.events := rfl
@[simp] theorem State.putCrc_txOut (v : Word) (s : State) : (s.putCrc v).txOut = s.txOut := rfl
@[simp] theorem State.putCrc_crcOut (v : Word) (s : State) : (s.putCrc v).crcOut = s.crcOut ++ [v] := rfl
@[simp] theorem State.putCrc_codecOut (v : Word) (s : State) : (s.putCrc v).codecOut = s.codecOut := rfl

/-! ### putCodec -/

@[simp] theorem State.putCodec_rxState (r : CodecResult) (s : State) : (s.putCodec r).rxState = s.rxState := rfl
@[simp] theorem State.putCodec_rxEsc (r : CodecResult) (s : State) : (s.putCodec r).rxEsc = s.rxEsc := rfl
@[simp] theorem State.putCodec_rxType (r : CodecResult) (s : State) : (s.putCodec r).rxType = s.rxType := rfl
@[simp] theorem State.putCodec_rxLen (r : CodecResult) (s : State) : (s.putCodec r).rxLen = s.rxLen := rfl
@[simp] theorem State.putCodec_rxLenCnt (r : CodecResult) (s : State) : (s.putCodec r).rxLenCnt = s.rxLenCnt := rfl
@[simp] theorem State.putCodec_rxRead (r : CodecResult) (s : State) : (s.putCodec r).rxRead = s.rxRead := rfl
@[simp] theorem State.putCodec_rxCrc (r : CodecResult) (s : State) : (s.putCodec r).rxCrc = s.rxCrc := rfl
@[simp] theorem State.putCodec_rxSum (r : CodecResult) (s : State) : (s.putCodec r).rxSum = s.rxSum := rfl
@[simp] theorem State.putCodec_rxSumCnt (r : CodecResult) (s : State) : (s.putCodec r).rxSumCnt = s.rxSumCnt := rfl
@[simp] theorem State.putCodec_rxBuf (r : CodecResult) (s : State) : (s.putCodec r).rxBuf = s.rxBuf := rfl
@[simp] theorem State.putCodec_rxBufN (r : CodecResult) (s : State) : (s.putCodec r).rxBufN = s.rxBufN := rfl
@[simp] theorem State.putCodec_txCrc (r : CodecResult) (s : State) : (s.putCodec r).txCrc = s.txCrc := rfl
@[simp] theorem State.putCodec_pending (r : CodecResult) (s : State) : (s.putCodec r).pending = s.pending := rfl
@[simp] theorem State.putCodec_events (r : CodecResult) (s : State) : (s.putCodec r).events = s.events := rfl
@[simp] theorem State.putCodec_txOut (r : CodecResult) (s : State) : (s.putCodec r).txOut = s.txOut := rfl
@[simp] theorem State.putCodec_crcOut (r : CodecResult) (s : State) : (s.putCodec r).crcOut = s.crcOut := rfl
@[simp] theorem State.putCodec_codecOut (r : CodecResult) (s : State) : (s.putCodec r).codecOut = s.codecOut ++ [r] := rfl

/-! ### setRxState -/

@[simp] theorem State.setRxState_rxState (st : RxState) (s : State) : (s.setRxState st).rxState = st := rfl
@[simp] theorem State.setRxState_rxEsc (st : RxState) (s : State) : (s.setRxState st).rxEsc = s.rxEsc := rfl
@[simp] theorem State.setRxState_rxType (st : RxState) (s : State) : (s.setRxState st).rxType = s.rxType := rfl
@[simp] theorem State.setRxState_rxLen (st : RxState) (s : State) : (s.setRxState st).rxLen = s.rxLen := rfl
@[simp] theorem State.setRxState_rxLenCnt (st : RxState) (s : State) : (s.setRxState st).rxLenCnt = s.rxLenCnt := rfl
@[simp] theorem State.setRxState_rxRead (st : RxState) (s : State) : (s.setRxState st).rxRead = s.rxRead := rfl
@[simp] theorem State.setRxState_rxCrc (st : RxState) (s : State) : (s.setRxState st).rxCrc = s.rxCrc := rfl
@[simp] theorem State.setRxState_rxSum (st : RxState) (s : State) : (s.setRxState st).rxSum = s.rxSum := rfl
@[simp] theorem State.setRxState_rxSumCnt (st : RxState) (s : State) : (s.setRxState st).rxSumCnt = s.rxSumCnt := rfl
@[simp] theorem State.setRxState_rxBuf (st : RxState) (s : State) : (s.setRxState st).rxBuf = s.rxBuf := rfl
@[simp] theorem State.setRxState_rxBufN (st : RxState) (s : State) : (s.setRxState st).rxBufN = s.rxBufN := rfl
@[simp] theorem State.setRxState_txCrc (st : RxState) (s : State) : (s.setRxState st).txCrc = s.txCrc := rfl
@[simp] theorem State.setRxState_pending (st : RxState) (s : State) : (s.setRxState st).pending = s.pending := rfl
@[simp] theorem State.setRxState_events (st : RxState) (s : State) : (s.setRxState st).events = s.events := rfl
@[simp] theorem State.setRxState_txOut (st : RxState) (s : State) : (s.setRxState st).txOut = s.txOut := rfl
@[simp] theorem State.setRxState_crcOut (st : RxState) (s : State) : (s.setRxState st).crcOut = s.crcOut := rfl
@[simp] theorem State.setRxState_codecOut (st : RxState) (s : State) : (s.setRxState st).codecOut = s.codecOut := rfl

/-! ### setRxEsc -/

@[simp] theorem State.setRxEsc_rxState (p : Bool) (s : State) : (s.setRxEsc p).rxState = s.rxState := rfl
@[simp] theorem State.setRxEsc_rxEsc (p : Bool) (s : State) : (s.setRxEsc p).rxEsc = p := rfl
@[simp] theorem State.setRxEsc_rxType (p : Bool) (s : State) : (s.setRxEsc p).rxType = s.rxType := rfl
@[simp] theorem State.setRxEsc_rxLen (p : Bool) (s : State) : (s.setRxEsc p).rxLen = s.rxLen := rfl
@[simp] theorem State.setRxEsc_rxLenCnt (p : Bool) (s : State) : (s.setRxEsc p).rxLenCnt = s.rxLenCnt := rfl
@[simp] theorem State.setRxEsc_rxRead (p : Bool) (s : State) : (s.setRxEsc p).rxRead = s.rxRead := rfl
@[simp] theorem State.setRxEsc_rxCrc (p : Bool) (s : State) : (s.setRxEsc p).rxCrc = s.rxCrc := rfl
@[simp] theorem State.setRxEsc_rxSum (p : Bool) (s : State) : (s.setRxEsc p).rxSum = s.rxSum := rfl
@[simp] theorem State.setRxEsc_rxSumCnt (p : Bool) (s : State) : (s.setRxEsc p).rxSumCnt = s.rxSumCnt := rfl
@[simp] theorem State.setRxEsc_rxBuf (p : Bool) (s : State) : (s.setRxEsc p).rxBuf = s.rxBuf := rfl
@[simp] theorem State.setRxEsc_rxBufN (p : Bool) (s : State) : (s.setRxEsc p).rxBufN = s.rxBufN := rfl
@[simp] theorem State.setRxEsc_txCrc (p : Bool) (s : State) : (s.setRxEsc p).txCrc = s.txCrc := rfl
@[simp] theorem State.setRxEsc_pending (p : Bool) (s : State) : (s.setRxEsc p).pending = s.pending := rfl
@[simp] theorem State.setRxEsc_events (p : Bool) (s : State) : (s.setRxEsc p).events = s.events := rfl
@[simp] theorem State.setRxEsc_txOut (p : Bool) (s : State) : (s.setRxEsc p).txOut = s.txOut := rfl
@[simp] theorem State.setRxEsc_crcOut (p : Bool) (s : State) : (s.setRxEsc p).crcOut = s.crcOut := rfl
@[simp] theorem State.setRxEsc_codecOut (p : Bool) (s : State) : (s.setRxEsc p).codecOut = s.codecOut := rfl

/-! ### setTxCrc -/

@[simp] theorem State.setTxCrc_rxState (c : Word) (s : State) : (s.setTxCrc c).rxState = s.rxState := rfl
@[simp] theorem State.setTxCrc_rxEsc (c : Word) (s : State) : (s.setTxCrc c).rxEsc = s.rxEsc := rfl
@[simp] theorem State.setTxCrc_rxType (c : Word) (s : State) : (s.setTxCrc c).rxType = s.rxType := rfl
@[simp] theorem State.setTxCrc_rxLen (c : Word) (s : State) : (s.setTxCrc c).rxLen = s.rxLen := rfl
@[simp] theorem State.setTxCrc_rxLenCnt (c : Word) (s : State) : (s.setTxCrc c).rxLenCnt = s.rxLenCnt := rfl
@[simp] theorem State.setTxCrc_rxRead (c : Word) (s : State) : (s.setTxCrc c).rxRead = s.rxRead := rfl
@[simp] theorem State.setTxCrc_rxCrc (c : Word) (s : State) : (s.setTxCrc c).rxCrc = s.rxCrc := rfl
@[simp] theorem State.setTxCrc_rxSum (c : Word) (s : State) : (s.setTxCrc c).rxSum = s.rxSum := rfl
@[simp] theorem State.setTxCrc_rxSumCnt (c : Word) (s : State) : (s.setTxCrc c).rxSumCnt = s.rxSumCnt := rfl
@[simp] theorem State.setTxCrc_rxBuf (c : Word) (s : State) : (s.setTxCrc c).rxBuf = s.rxBuf := rfl
@[simp] theorem State.setTxCrc_rxBufN (c : Word) (s : State) : (s.setTxCrc c).rxBufN = s.rxBufN := rfl
@[simp] theorem State.setTxCrc_txCrc (c : Word) (s : State) : (s.setTxCrc c).txCrc = c := rfl
@[simp] theorem State.setTxCrc_pending (c : Word) (s : State) : (s.setTxCrc c).pending = s.pending := rfl
@[simp] theorem State.setTxCrc_events (c : Word) (s : State) : (s.setTxCrc c).events = s.events := rfl
@[simp] theorem State.setTxCrc_txOut (c : Word) (s : State) : (s.setTxCrc c).txOut = s.txOut := rfl
@[simp] theorem State.setTxCrc_crcOut (c : Word) (s : State) : (s.setTxCrc c).crcOut = s.crcOut := rfl
@[simp] theorem State.setTxCrc_codecOut (c : Word) (s : State) : (s.setTxCrc c).codecOut = s.codecOut := rfl

/-! ### The three emissions are emissions -/

@[simp] theorem State.emitStart_eq (s : State) : s.emitStart = s.emit (.start s.rxType s.rxLen) := rfl
@[simp] theorem State.emitData_eq (s : State) :
    s.emitData = s.emit (.data s.rxType s.rxBufN s.chunk) := rfl
@[simp] theorem State.emitFinished_eq (v : Bool) (s : State) :
    s.emitFinished v = s.emit (.finished s.rxType v) := rfl

/-! ### Writing a flag or a state that is there already -/

theorem State.setRxEsc_self (s : State) : s.setRxEsc s.rxEsc = s := rfl

theorem State.setRxState_self (s : State) : s.setRxState s.rxState = s := rfl

@[simp] theorem State.setRxEsc_setRxEsc (p q : Bool) (s : State) :
    (s.setRxEsc p).setRxEsc q = s.setRxEsc q := rfl

/-- With the flag already at `p`, writing `p` changes nothing. -/
theorem State.setRxEsc_of_eq (s : State) (p : Bool) (h : s.rxEsc = p) : s.setRxEsc p = s := by
  subst h
  rfl

/-! ### RESET -/

@[simp] theorem State.resetRegisters_rxState (s : State) : s.resetRegisters.rxState = .waitStart := rfl
@[simp] theorem State.resetRegisters_rxEsc (s : State) : s.resetRegisters.rxEsc = false := rfl
@[simp] theorem State.resetRegisters_rxBuf (s : State) : s.resetRegisters.rxBuf = [] := rfl
@[simp] theorem State.resetRegisters_rxBufN (s : State) : s.resetRegisters.rxBufN = 0 := rfl
@[simp] theorem State.resetRegisters_txCrc (s : State) : s.resetRegisters.txCrc = 0#32 := rfl
@[simp] theorem State.resetRegisters_pending (s : State) : s.resetRegisters.pending = s.pending := rfl
@[simp] theorem State.resetRegisters_events (s : State) : s.resetRegisters.events = s.events := rfl
@[simp] theorem State.resetRegisters_txOut (s : State) : s.resetRegisters.txOut = s.txOut := rfl
@[simp] theorem State.resetRegisters_crcOut (s : State) : s.resetRegisters.crcOut = s.crcOut := rfl
@[simp] theorem State.resetRegisters_codecOut (s : State) : s.resetRegisters.codecOut = s.codecOut := rfl

end Sys2Proof.Machine
end

