-- ==== Sys2Proof/Laws/Parser.lean ====
section
/-! SUPPORT. Laws/Parser.lean: RX.STEP state by state, and everything one RX.STEP and one logical byte can do, said once. -/

namespace Sys2Proof.Machine

@[simp] theorem Result.andThen_next (s : State) (f : State → Result) :
    Result.andThen (.next s) f = f s := rfl

@[simp] theorem Result.andThen_fault (e : Fault) (f : State → Result) :
    Result.andThen (.fault e) f = .fault e := rfl

@[simp] theorem Result.andThen_refused (e : Refusal) (f : State → Result) :
    Result.andThen (.refused e) f = .refused e := rfl

theorem Result.andThen_assoc (r : Result) (f g : State → Result) :
    Result.andThen (Result.andThen r f) g = Result.andThen r fun s => Result.andThen (f s) g := by
  cases r <;> rfl

/-- A sequence that ends in a next state went through one. -/
theorem Result.andThen_eq_next {r : Result} {f : State → Result} {t : State}
    (h : Result.andThen r f = .next t) : ∃ u, r = .next u ∧ f u = .next t := by
  cases r with
  | next u => exact ⟨u, rfl, h⟩
  | fault e => cases h
  | refused e => cases h

/-! ### The parser's operations, field by field -/

@[simp] theorem setRxState_chunk (st : RxState) (s : State) : (s.setRxState st).chunk = s.chunk := rfl
@[simp] theorem setRxEsc_chunk (p : Bool) (s : State) : (s.setRxEsc p).chunk = s.chunk := rfl

theorem bufWrite_next (cfg : Config) (i : Nat) (v : Byte) (s : State) (h : i < cfg.chunkCap) :
    bufWrite cfg i v s = .next { s with rxBuf := s.rxBuf.write i v } := by
  simp [bufWrite, h]

theorem bufWrite_fault (cfg : Config) (i : Nat) (v : Byte) (s : State) (h : ¬ i < cfg.chunkCap) :
    bufWrite cfg i v s = .fault .bufIndexOutOfRange := by
  simp [bufWrite, h]

/-- The state in which rule R141 tests its two conditions: byte folded, stored and counted. -/
def storedPayload (b : Byte) (s : State) : State :=
  advancePayload { s with rxCrc := crcUpdateFn s.rxCrc b, rxBuf := s.rxBuf.write s.rxBufN b }

/-- A payload byte that fits in the buffer (rule R141). -/
theorem takePayload_next (cfg : Config) (b : Byte) (s : State) (h : s.rxBufN < cfg.chunkCap) :
    takePayload cfg b s = .next (finishPayload cfg (storedPayload b s)) := by
  simp [takePayload, bufWrite, h, storedPayload]

/-- A payload byte that does not fit, in states no run reaches. -/
theorem takePayload_fault (cfg : Config) (b : Byte) (s : State) (h : ¬ s.rxBufN < cfg.chunkCap) :
    takePayload cfg b s = .fault .bufIndexOutOfRange := by
  simp [takePayload, bufWrite, h]

/-- The three ends of a payload byte's step (rule R141): complete, full, neither. -/
theorem finishPayload_cases (cfg : Config) (s : State) :
    finishPayload cfg s =
      if s.rxRead = s.rxLen then (flushChunk s).setRxState .readCrc
      else if s.rxBufN = cfg.chunkCap then flushChunk s else s := by
  unfold finishPayload
  by_cases h1 : s.rxBufN = cfg.chunkCap <;> by_cases h2 : s.rxRead = s.rxLen <;> simp [h1, h2]

/-- The bytes collected after one more is stored at the cursor. -/
theorem storedPayload_chunk (b : Byte) (s : State) (h : s.rxBuf.wf = true) :
    (storedPayload b s).chunk = s.chunk ++ [b] := by
  show (List.range (s.rxBufN + 1)).map (s.rxBuf.write s.rxBufN b).read = _
  rw [List.range_succ, List.map_append, State.chunk]
  congr 1
  · refine List.map_congr_left fun a ha => Memory.read_write_other _ _ _ _ ?_ h
    have := List.mem_range.mp ha
    omega
  · simp [Memory.read_write_same _ _ _ h]

@[simp] theorem State.chunk_length (s : State) : s.chunk.length = s.rxBufN := by simp [State.chunk]

/-! ### One logical byte -/

/-- Everything LOGICAL can do in a content state (rule R135). -/
theorem logicalByte_cases {cfg : Config} {b : Byte} {s t : State}
    (hc : s.rxState.isContent = true) (h : logicalByte cfg b s = .next t) :
    (s.rxState = .readType ∧ t = takeType b s) ∨
    (s.rxState = .readLength ∧ t = takeLength b s) ∨
    (s.rxState = .readData ∧ s.rxRead < s.rxLen ∧ s.rxBufN < cfg.chunkCap ∧
      t = finishPayload cfg (storedPayload b s)) ∨
    (s.rxState = .readData ∧ ¬ s.rxRead < s.rxLen ∧ t = takeSum b s) ∨
    (s.rxState = .readCrc ∧ t = takeSum b s) := by
  unfold logicalByte at h
  cases hs : s.rxState <;> simp only [hs, RxState.isContent] at h hc <;> try contradiction
  · exact .inl ⟨rfl, by cases h; rfl⟩
  · exact .inr (.inl ⟨rfl, by cases h; rfl⟩)
  · split at h
    · next hlt =>
      by_cases hb : s.rxBufN < cfg.chunkCap
      · rw [takePayload_next cfg b s hb] at h
        exact .inr (.inr (.inl ⟨rfl, hlt, hb, by cases h; rfl⟩))
      · rw [takePayload_fault cfg b s hb] at h
        cases h
    · next hlt => exact .inr (.inr (.inr (.inl ⟨rfl, hlt, by cases h; rfl⟩)))
  · exact .inr (.inr (.inr (.inr ⟨rfl, by cases h; rfl⟩)))

/-! ### One wire byte, state by state -/

theorem rxByte_waitStart (cfg : Config) (w : Byte) (s : State) (h : s.rxState = .waitStart) :
    rxByte cfg w s = .next (if w = frameDelim then s.setRxState .readType else s) := by
  simp [rxByte, h]

theorem rxByte_expectEnd (cfg : Config) (w : Byte) (s : State) (h : s.rxState = .expectEnd) :
    rxByte cfg w s = .next (finishPacket (validFlag s.rxSumCnt s.rxCrc s.rxSum w) s) := by
  simp [rxByte, h]

theorem rxByte_content (cfg : Config) (w : Byte) (s : State) (h : s.rxState.isContent = true) :
    rxByte cfg w s = deliverLogical cfg (unescapeStage cfg s.rxEsc w) s := by
  unfold rxByte
  cases hs : s.rxState <;> simp_all [RxState.isContent]

/-- Everything one RX.STEP can do (rule R131). -/
theorem rxByte_cases {cfg : Config} {w : Byte} {s t : State} (h : rxByte cfg w s = .next t) :
    (s.rxState = .waitStart ∧ w = frameDelim ∧ t = s.setRxState .readType) ∨
    (s.rxState = .waitStart ∧ w ≠ frameDelim ∧ t = s) ∨
    (s.rxState.isContent = true ∧ (unescapeStage cfg s.rxEsc w).2 = none ∧
      t = s.setRxEsc (unescapeStage cfg s.rxEsc w).1) ∨
    (∃ b, s.rxState.isContent = true ∧ (unescapeStage cfg s.rxEsc w).2 = some b ∧
      logicalByte cfg b (s.setRxEsc (unescapeStage cfg s.rxEsc w).1) = .next t) ∨
    (s.rxState = .expectEnd ∧ t = finishPacket (validFlag s.rxSumCnt s.rxCrc s.rxSum w) s) := by
  cases hc : s.rxState.isContent
  · cases hs : s.rxState <;> simp only [hs, RxState.isContent] at hc <;> try contradiction
    · rw [rxByte_waitStart cfg w s hs] at h
      by_cases hw : w = frameDelim
      · exact .inl ⟨rfl, hw, by simpa [hw] using h.symm⟩
      · exact .inr (.inl ⟨rfl, hw, by simpa [hw] using h.symm⟩)
    · rw [rxByte_expectEnd cfg w s hs] at h
      exact .inr (.inr (.inr (.inr ⟨rfl, by cases h; rfl⟩)))
  · rw [rxByte_content cfg w s hc] at h
    unfold deliverLogical at h
    cases hb : (unescapeStage cfg s.rxEsc w).2 with
    | none =>
      simp only [hb] at h
      exact .inr (.inr (.inl ⟨rfl, rfl, by cases h; rfl⟩))
    | some b =>
      simp only [hb] at h
      exact .inr (.inr (.inr (.inl ⟨b, rfl, rfl, h⟩)))

/-! ### Wire strings -/

@[simp] theorem rxBytes_nil (cfg : Config) (s : State) : rxBytes cfg [] s = .next s := rfl

theorem rxBytes_cons (cfg : Config) (w : Byte) (ws : List Byte) (s : State) :
    rxBytes cfg (w :: ws) s = Result.andThen (rxByte cfg w s) (rxBytes cfg ws) := rfl

theorem rxBytes_append (cfg : Config) (u v : List Byte) (s : State) :
    rxBytes cfg (u ++ v) s = Result.andThen (rxBytes cfg u s) (rxBytes cfg v) := by
  induction u generalizing s with
  | nil => rfl
  | cons w ws ih =>
    simp only [List.cons_append, rxBytes_cons, Result.andThen_assoc]
    congr 1
    funext s'
    exact ih s'

end Sys2Proof.Machine
end

