-- ==== Sys2Proof/Laws/PerInstr.lean ====
section
/-! SUPPORT. Laws/PerInstr.lean: the family WireLength: an instruction that has a wire encoding has at least one byte in it, so the delivery of its bytes is never an empty delivery (rule R35: every RX.STEP consumes exactly one wire byte). -/

namespace Sys2Proof.Laws.WireLength

open Sys2Proof

/-- An encoding, where the row has one, is not empty. -/
def Statement (i : Instr) : Prop := ∀ bs, encode i = some bs → bs ≠ []

theorem crcTable (n : Byte) : Statement (.crcTable n) := by simp [Statement, encode]
theorem crcSeed : Statement .crcSeed := by simp [Statement, encode]
theorem crcUpdate (c : Word) (b : Byte) : Statement (.crcUpdate c b) := by simp [Statement, encode]
theorem crcFinal (c : Word) : Statement (.crcFinal c) := by simp [Statement, encode]
theorem stuffEnc (b : Byte) : Statement (.stuffEnc b) := by simp [Statement, encode]
theorem stuffDec (p : Bool) (w : Byte) : Statement (.stuffDec p w) := by simp [Statement, encode]
theorem rxStep (w : Byte) : Statement (.rxStep w) := by simp [Statement, encode]
theorem txSend (t : Byte) (len : Word) (p : List Byte) : Statement (.txSend t len p) := by
  simp [Statement, encode]
theorem reset : Statement .reset := by simp [Statement, encode]
theorem sof : Statement .sof := by simp [Statement, encode]
theorem drop (w : Byte) : Statement (.drop w) := by simp [Statement, encode]
theorem xlit (w : Byte) : Statement (.xlit w) := by simp [Statement, encode]
theorem esc : Statement .esc := by simp [Statement, encode]
theorem lit (w : Byte) : Statement (.lit w) := by simp [Statement, encode]
theorem eof : Statement .eof := by simp [Statement, encode]
theorem badeof (w : Byte) : Statement (.badeof w) := by simp [Statement, encode]
theorem itemEsc7E : Statement .itemEsc7E := by simp [Statement, encode]
theorem itemEsc7D : Statement .itemEsc7D := by simp [Statement, encode]
theorem itemPlain (b : Byte) : Statement (.itemPlain b) := by simp [Statement, encode]
theorem itemNoncanon (x : Byte) : Statement (.itemNoncanon x) := by simp [Statement, encode]
theorem frame (t : Byte) (p : List Byte) : Statement (.frame t p) := by
  simp [Statement, encode, frameBytes]
theorem evStart : Statement .evStart := by simp [Statement, encode]
theorem evData : Statement .evData := by simp [Statement, encode]
theorem evFinished (v : Bool) : Statement (.evFinished v) := by simp [Statement, encode]

end Sys2Proof.Laws.WireLength
end

