-- ==== Sys2Proof/Laws/Serializer.lean ====
section
/-! SUPPORT. Laws/Serializer.lean: what the two halves of TX.SEND do to the state, in closed form. -/

namespace Sys2Proof.Machine

/-- PUT_COVERED over a sequence: the bytes folded into tx_crc, their wire bytes written (rule R163). -/
theorem putCovered_foldl (bs : List Byte) (s : State) :
    bs.foldl putCovered s =
      { s with txCrc := crcFold s.txCrc bs, txOut := s.txOut ++ stuffEncAll bs } := by
  induction bs generalizing s with
  | nil => simp
  | cons b bs ih => simp [ih, putCovered, State.setTxCrc, State.writeAll]

/-- PUT_PLAIN over a sequence: the wire bytes written, tx_crc as it was (rule R163). -/
theorem putPlain_foldl (bs : List Byte) (s : State) :
    bs.foldl putPlain s = { s with txOut := s.txOut ++ stuffEncAll bs } := by
  induction bs generalizing s with
  | nil => simp
  | cons b bs ih => simp [ih, putPlain, State.writeAll]

end Sys2Proof.Machine
end

