-- ==== Sys2Proof/Tests/Slice0.lean ====
section
/-! SUPPORT. Tests/Slice0.lean: small tests on the spec's own vectors (95_test_vectors.md, named V<n>, and the tables of the rules), the smoke test of WellFormed, the decoding of words written out from the spec's encodings, and for every obligation with hypotheses a concrete case that meets them. Every expected value is the spec's, none was taken from the model. -/

namespace Sys2Proof.Tests

open Sys2Proof Sys2Proof.Machine

/-! ### Helpers -/

/-- A part of the next state an outcome holds, none where it stops. -/
def after {α : Type} (r : Result) (f : State → α) : Option α :=
  match r with
  | .next s => some (f s)
  | .fault _ => none
  | .refused _ => none

/-- The refusal an outcome holds. -/
def refusal (r : Result) : Option Refusal :=
  match r with
  | .next _ => none
  | .fault _ => none
  | .refused e => some e

/-- The fault an outcome holds. -/
def faulted (r : Result) : Option Fault :=
  match r with
  | .next _ => none
  | .fault e => some e
  | .refused _ => none

/-- A parser in a state, with the flag given and every other register at reset. -/
def at0 (st : RxState) (p : Bool) : State := { State.reset with rxState := st, rxEsc := p }

/-- READ_LENGTH in the header of V20 with `k` length bytes taken. -/
def inLength (k : BitVec 3) (crc : Word) : State :=
  { State.reset with
    rxState := .readLength, rxType := 0x01#8, rxLen := if k = 0#3 then 0#32 else 3#32, rxLenCnt := k, rxCrc := crc }

/-- READ_DATA in a packet of type 01 with `read` of `len` payload bytes taken, `n` of them in the buffer. -/
def inData (len read : Word) (n : Nat) (buf : Memory) (crc : Word) : State :=
  { State.reset with
    rxState := .readData, rxType := 0x01#8, rxLen := len, rxLenCnt := 4#3, rxRead := read,
    rxBufN := n, rxBuf := buf, rxCrc := crc }

/-- READ_CRC in the packet of V20 with `k` checksum bytes taken. -/
def inCrc (k : BitVec 3) (sum : Word) : State :=
  { State.reset with
    rxState := .readCrc, rxType := 0x01#8, rxLen := 3#32, rxLenCnt := 4#3, rxRead := 3#32,
    rxCrc := 0x0E5F430F#32, rxSum := sum, rxSumCnt := k }

/-- EXPECT_END in the packet of V20. -/
def inEnd (sum : Word) : State := { inCrc 4#3 sum with rxState := .expectEnd }

/-! ### WellFormed refuses each ill-formed term -/

theorem test_wf_txSend : (Instr.txSend 0#8 2#32 [0x41#8]).wf = false := by decide
theorem test_wf_drop : (Instr.drop 0x7E#8).wf = false := by decide
theorem test_wf_lit : (Instr.lit 0x7D#8).wf = false := by decide
theorem test_wf_badeof : (Instr.badeof 0x7E#8).wf = false := by decide
theorem test_wf_itemPlain_delim : (Instr.itemPlain 0x7E#8).wf = false := by decide
theorem test_wf_itemPlain_mark : (Instr.itemPlain 0x7D#8).wf = false := by decide
theorem test_wf_itemNoncanon_5E : (Instr.itemNoncanon 0x5E#8).wf = false := by decide
theorem test_wf_itemNoncanon_5D : (Instr.itemNoncanon 0x5D#8).wf = false := by decide
theorem test_wf_frame : (Instr.frame 0#8 (List.replicate (2 ^ 32) 0#8)).wf = false := by
  simp only [Instr.wf, List.length_replicate, Nat.lt_irrefl, decide_false]
theorem test_wf_lit_delim : (Instr.lit 0x7E#8).wf = true := by decide

/-! ### Decoding, word by word -/

theorem test_decode_sof : decodeSymbol Config.hardware .waitStart false 0x7E#8 = .sof := by decide
theorem test_decode_drop :
    decodeSymbol Config.hardware .waitStart false 0x7D#8 = .drop 0x7D#8 := by decide
theorem test_decode_xlit :
    decodeSymbol Config.hardware .readData true 0x7D#8 = .xlit 0x7D#8 := by decide
theorem test_decode_esc : decodeSymbol Config.hardware .readCrc false 0x7D#8 = .esc := by decide
theorem test_decode_lit :
    decodeSymbol Config.hardware .readType false 0x7E#8 = .lit 0x7E#8 := by decide
theorem test_decode_eof : decodeSymbol Config.hardware .expectEnd false 0x7E#8 = .eof := by decide
theorem test_decode_badeof :
    decodeSymbol Config.hardware .expectEnd false 0x7D#8 = .badeof 0x7D#8 := by decide
theorem test_decode_itemEsc7E : decodeTableWord 16 0b0111110101011110 = some .itemEsc7E := by decide
theorem test_decode_itemEsc7D : decodeTableWord 16 0b0111110101011101 = some .itemEsc7D := by decide
theorem test_decode_itemNoncanon :
    decodeTableWord 16 0b0111110100100001 = some (.itemNoncanon 0x21#8) := by decide
theorem test_decode_itemPlain :
    decode [0b01000001#8, 0x7E#8] = .ok (.itemPlain 0x41#8, [0x7E#8]) := by rfl
/-- V21, byte by byte. -/
theorem test_decode_frame :
    decode [0x7E#8, 0x00#8, 0x00#8, 0x00#8, 0x00#8, 0x00#8, 0x1D#8, 0xF7#8, 0x22#8, 0xC6#8, 0x7E#8] =
      .ok (.frame 0x00#8 [], []) := by rfl
/-- V21 with one bit of the checksum flipped. -/
theorem test_decode_frame_bad :
    decode [0x7E#8, 0x00#8, 0x00#8, 0x00#8, 0x00#8, 0x00#8, 0x1D#8, 0x77#8, 0x22#8, 0xC6#8, 0x7E#8] =
      .error .checksumMismatch := by rfl
theorem test_decode_nothing : decode [] = .error .noBytes := by rfl
theorem test_decode_half_pair : decode [0x7D#8] = .error .truncatedItem := by rfl
theorem test_decode_open_frame : decode [0x7E#8, 0x00#8] = .error .truncatedFrame := by rfl
/-- The ports' operations have no encoding (rule R82), and neither have the events. -/
theorem test_encode_port :
    encode (.rxStep 0x7E#8) = none ∧ encode (.txSend 0#8 0#32 []) = none ∧ encode .reset = none ∧
      encode (.crcTable 0#8) = none ∧ encode .crcSeed = none ∧ encode (.crcUpdate 0#32 0#8) = none ∧
      encode (.crcFinal 0#32) = none ∧ encode (.stuffEnc 0#8) = none ∧
      encode (.stuffDec false 0#8) = none ∧ encode .evStart = none ∧ encode .evData = none ∧
      encode (.evFinished true) = none := by decide
/-- V20: the encoding of the source's literal scenario. -/
theorem test_encode_frame :
    encode (.frame 0x01#8 [0x7E#8, 0x01#8, 0x7D#8]) =
      some [0x7E#8, 0x01#8, 0x03#8, 0x00#8, 0x00#8, 0x00#8, 0x7D#8, 0x5E#8, 0x01#8, 0x7D#8, 0x5D#8,
        0xF0#8, 0xBC#8, 0xA0#8, 0xF1#8, 0x7E#8] := by decide +kernel

/-! ### The CRC engine (V10 to V13) -/

theorem test_crcTable_7E :
    after (exec (.crcTable 0x7E#8) State.reset) (·.crcOut) = some [0xB7BD5C3B#32] := by decide
theorem test_crcTable_80 :
    after (exec (.crcTable 0x80#8) State.reset) (·.crcOut) = some [0xEDB88320#32] := by decide
theorem test_crcSeed : after (exec .crcSeed State.reset) (·.crcOut) = some [0xFFFFFFFF#32] := by
  decide
theorem test_crcUpdate :
    after (exec (.crcUpdate 0x12345678#32 0x9A#8) State.reset) (·.crcOut) = some [0x4E16B702#32] := by
  decide
theorem test_crcUpdate_shift :
    after (exec (.crcUpdate 0x80000000#32 0x00#8) State.reset) (·.crcOut) = some [0x00800000#32] := by
  decide
theorem test_crcFinal :
    after (exec (.crcFinal 0x340BC6D9#32) State.reset) (·.crcOut) = some [0xCBF43926#32] := by decide

/-! ### The codec (V56 to V58) -/

theorem test_stuffEnc_7D :
    after (exec (.stuffEnc 0x7D#8) State.reset) (·.codecOut) = some [.encoded [0x7D#8, 0x5D#8]] := by
  decide
theorem test_stuffEnc_5E :
    after (exec (.stuffEnc 0x5E#8) State.reset) (·.codecOut) = some [.encoded [0x5E#8]] := by decide
theorem test_stuffDec_pending :
    after (exec (.stuffDec true 0x7D#8) State.reset) (·.codecOut) =
      some [.decoded false (some 0x5D#8)] := by decide
theorem test_stuffDec_delim :
    after (exec (.stuffDec false 0x7E#8) State.reset) (·.codecOut) =
      some [.decoded false (some 0x7E#8)] := by decide

/-! ### The parser, one step at a time (the traces of V20 and P3) -/

/-- V20 step 6: the fourth length byte. -/
theorem test_rxStep_start :
    after (exec (.rxStep 0x00#8) (inLength 3#3 0x6441F9DF#32))
      (fun t => (t.rxState, t.rxCrc, t.rxLenCnt, t.events)) =
      some (.readData, 0x16088EBC#32, 4#3, [.start 0x01#8 3#32]) := by decide
/-- V20 step 16. -/
theorem test_rxStep_end :
    after (exec (.rxStep 0x7E#8) (inEnd 0xF1A0BCF0#32)) (fun t => (t.rxState, t.events)) =
      some (.waitStart, [.finished 0x01#8 true]) := by decide
/-- P3 step 12: a build with CHUNK_CAP = 4 hands the chunk over when it is full. -/
theorem test_chunk_full :
    after (rxByte { Config.hardware with chunkCap := 4 } 0x5D#8
        { inData 6#32 3#32 3 [(0, 0x11#8), (1, 0x7E#8), (2, 0x22#8)] 0x7943AB21#32 with
          rxType := 0x20#8, rxEsc := true })
      (fun t => (t.rxState, t.rxCrc, t.rxBufN, t.events)) =
      some (.readData, 0x62A45E74#32, 0,
        [.data 0x20#8 4 [0x11#8, 0x7E#8, 0x22#8, 0x7D#8]]) := by decide
/-- V20 step 1. -/
theorem test_sof : after (exec .sof State.reset) id = some { State.reset with rxState := .readType } := by
  decide
theorem test_drop : after (exec (.drop 0x7D#8) State.reset) id = some State.reset := by decide
/-- V20 step 8. -/
theorem test_xlit :
    after (exec (.xlit 0x5E#8) { inData 3#32 0#32 0 [] 0x16088EBC#32 with rxEsc := true })
      (fun t => (t.rxEsc, t.rxCrc, t.rxBuf, t.rxBufN)) =
      some (false, 0x757CAB12#32, [(0, 0x7E#8)], 1) := by decide
/-- V20 step 7. -/
theorem test_esc :
    after (exec .esc (inData 3#32 0#32 0 [] 0x16088EBC#32)) id =
      some { inData 3#32 0#32 0 [] 0x16088EBC#32 with rxEsc := true } := by decide
/-- V20 step 3. -/
theorem test_lit_length :
    after (exec (.lit 0x03#8) (inLength 0#3 0x5AFA20E4#32)) id =
      some (inLength 1#3 0x3E348DFB#32) := by decide
/-- V20 step 13. -/
theorem test_lit_crc :
    after (exec (.lit 0xBC#8) (inCrc 1#3 0x000000F0#32)) id = some (inCrc 2#3 0x0000BCF0#32) := by
  decide
theorem test_eof :
    after (exec .eof (inEnd 0xF1A0BCF0#32)) (·.events) = some [.finished 0x01#8 true] := by decide
/-- One bit of the received checksum flipped (V40). -/
theorem test_eof_bad :
    after (exec .eof (inEnd 0xF1A03CF0#32)) (·.events) = some [.finished 0x01#8 false] := by decide
/-- The checksum is right and the delimiter missing (V38). -/
theorem test_badeof :
    after (exec (.badeof 0x00#8) (inEnd 0xF1A0BCF0#32)) (fun t => (t.rxState, t.events)) =
      some (.waitStart, [.finished 0x01#8 false]) := by decide
/-- V20 steps 10 and 11. -/
theorem test_itemEsc7D :
    after (exec .itemEsc7D (inData 3#32 2#32 2 [(0, 0x7E#8), (1, 0x01#8)] 0x84CB3D75#32))
      (fun t => (t.rxState, t.rxCrc, t.rxBufN, t.events)) =
      some (.readCrc, 0x0E5F430F#32, 0, [.data 0x01#8 3 [0x7E#8, 0x01#8, 0x7D#8]]) := by decide
/-- V20 steps 7 and 8. -/
theorem test_itemEsc7E :
    after (exec .itemEsc7E (inData 3#32 0#32 0 [] 0x16088EBC#32))
      (fun t => (t.rxEsc, t.rxRead, t.rxCrc, t.rxBuf)) =
      some (false, 1#32, 0x757CAB12#32, [(0, 0x7E#8)]) := by decide
/-- V20 step 9. -/
theorem test_itemPlain :
    after (exec (.itemPlain 0x01#8) (inData 3#32 1#32 1 [(0, 0x7E#8)] 0x757CAB12#32))
      (fun t => (t.rxRead, t.rxCrc, t.rxBuf)) =
      some (2#32, 0x84CB3D75#32, [(0, 0x7E#8), (1, 0x01#8)]) := by decide
/-- V42 (a): `7D 21` is the type 01; the accumulator is that of the type 01 (V18). -/
theorem test_itemNoncanon :
    after (exec (.itemNoncanon 0x21#8) (at0 .readType false)) (fun t => (t.rxState, t.rxType, t.rxCrc)) =
      some (.readLength, 0x01#8, 0x5AFA20E4#32) := by decide
/-- V21: the shortest frame. -/
theorem test_frame :
    after (exec (.frame 0x00#8 []) State.reset) (fun t => (t.rxState, t.rxCrc, t.rxSum, t.events)) =
      some (.waitStart, 0x39DD08E2#32, 0xC622F71D#32, [.start 0x00#8 0#32, .finished 0x00#8 true]) := by
  decide
/-- V47 (a), the seventh wire byte: without un-stuffing the marker is a payload byte, here the first of three. -/
theorem test_raw_variant :
    after (rxByte Config.hardware.rawVariant 0x7D#8
        (inData 3#32 0#32 0 [] 0x16088EBC#32)) (fun t => (t.rxEsc, t.rxRead, t.rxBuf)) =
      some (false, 1#32, [(0, 0x7D#8)]) := by decide

/-! ### The serializer (V26) and RESET -/

theorem test_txSend :
    after (exec (.txSend 0x00#8 1#32 [0x09#8]) State.reset) (fun t => (t.txCrc, t.txOut)) =
      some (0x0A81CF48#32,
        [0x7E#8, 0x00#8, 0x01#8, 0x00#8, 0x00#8, 0x00#8, 0x09#8, 0xB7#8, 0x30#8, 0x7D#8, 0x5E#8,
          0xF5#8, 0x7E#8]) := by decide
theorem test_txSend_short :
    refusal (exec (.txSend 0x00#8 2#32 [0x09#8]) State.reset) = some .payloadLength := by decide
/-- V46: RESET in mid-packet. -/
theorem test_reset :
    after (exec .reset (inData 3#32 2#32 2 [(0, 0x41#8), (1, 0x42#8)] 0xF2699019#32)) id =
      some State.reset := by decide

/-! ### Events -/

theorem test_evStart :
    after (exec .evStart (inData 3#32 0#32 0 [] 0#32)) (·.events) = some [.start 0x01#8 3#32] := by
  decide
theorem test_evData :
    after (exec .evData (inData 3#32 2#32 2 [(1, 0x42#8)] 0#32)) (·.events) =
      some [.data 0x01#8 2 [0x00#8, 0x42#8]] := by decide
theorem test_evFinished :
    after (exec (.evFinished false) (inEnd 0#32)) (·.events) = some [.finished 0x01#8 false] := by decide

/-! ### Steps -/

theorem test_step_sof :
    after (step (State.reset.withFetchWord 8 0x7E)) id =
      some { State.reset with rxState := .readType } := by decide
/-- The wire pair 7D 5E, placed as a table word, is the logical byte 7E: here the type. -/
theorem test_step_item :
    after (step (State.reset.withFetchWord 16 0x7D5E)) (fun t => (t.rxState, t.rxType)) =
      some (.readLength, 0x7E#8) := by decide
theorem test_step_idle : after (step State.reset) id = some State.reset := by decide

/-! ### BUF -/

theorem test_buf_last :
    after (bufWrite Config.hardware 255 0x41#8 State.reset) (·.rxBuf) = some [(255, 0x41#8)] := by
  decide
theorem test_buf_outside :
    faulted (bufWrite Config.hardware 256 0x41#8 State.reset) = some .bufIndexOutOfRange := by decide
/-- Writing the reset value removes the entry. -/
theorem test_buf_canonical : Memory.write [(3, 0x41#8)] 3 0x00#8 = [] := by decide

/-! ### States that meet the invariant of rule R41 -/

theorem inv_readType : (at0 .readType false).Inv Config.hardware := by constructor <;> decide
theorem inv_readType_esc : (at0 .readType true).Inv Config.hardware := by constructor <;> decide
theorem inv_inLength : (inLength 2#3 0x2A511F19#32).Inv Config.hardware := by constructor <;> decide
theorem inv_inLength_last : (inLength 3#3 0x6441F9DF#32).Inv Config.hardware := by
  constructor <;> decide
theorem inv_inData : (inData 3#32 0#32 0 [] 0x16088EBC#32).Inv Config.hardware := by
  constructor <;> decide
theorem inv_inData_last :
    (inData 3#32 2#32 2 [(0, 0x7E#8), (1, 0x01#8)] 0x84CB3D75#32).Inv Config.hardware := by
  constructor <;> decide
theorem inv_inData_full : (inData 600#32 255#32 255 [] 0#32).Inv Config.hardware := by
  constructor <;> decide
theorem inv_inData_empty : (inData 0#32 0#32 0 [] 0x39DD08E2#32).Inv Config.hardware := by
  constructor <;> decide
theorem inv_inCrc : (inCrc 2#3 0x0000BCF0#32).Inv Config.hardware := by constructor <;> decide
theorem inv_inCrc_last : (inCrc 3#3 0x00A0BCF0#32).Inv Config.hardware := by constructor <;> decide
theorem inv_inEnd : (inEnd 0xF1A0BCF0#32).Inv Config.hardware := by constructor <;> decide

/-! ### Witnesses: for every obligation with hypotheses, cases that meet them -/

theorem witness_FunctionPortsArePure :
    isFunctionPort (.crcTable 0#8) = true ∧ isFunctionPort .crcSeed = true ∧
      isFunctionPort (.crcUpdate 0#32 0#8) = true ∧ isFunctionPort (.crcFinal 0#32) = true ∧
      isFunctionPort (.stuffEnc 0#8) = true ∧ isFunctionPort (.stuffDec true 0#8) = true := by decide

theorem witness_EncodedBytesAvoidTheDelimiter :
    stuffEncAll [0x41#8, 0x7E#8] = [0x41#8] ++ escapeMark :: [0x5E#8] ∧
      stuffEncAll [0x7D#8] = [] ++ escapeMark :: [0x5D#8] := by decide

theorem witness_WireSymbolTable :
    (0x7E#8 : Byte) = 0x7E#8 ∧ (0x7D#8 : Byte) ≠ 0x7E#8 ∧ (0x7F#8 : Byte) ≠ 0x7D#8 ∧
      RxState.isContent .readType = true ∧ RxState.isContent .readLength = true ∧
      RxState.isContent .readData = true ∧ RxState.isContent .readCrc = true := by decide

theorem witness_DecodeOfEncodeIsIdentity :
    (Instr.itemPlain 0x7F#8).wf = true ∧ isWireString (.itemPlain 0x7F#8) = true ∧
      encode (.itemPlain 0x7F#8) = some [0x7F#8] ∧
    (Instr.itemNoncanon 0x7E#8).wf = true ∧ isWireString (.itemNoncanon 0x7E#8) = true ∧
      encode (.itemNoncanon 0x7E#8) = some [0x7D#8, 0x7E#8] ∧
    Instr.itemEsc7E.wf = true ∧ isWireString .itemEsc7E = true ∧
      encode .itemEsc7E = some [0x7D#8, 0x5E#8] ∧
    Instr.itemEsc7D.wf = true ∧ isWireString .itemEsc7D = true ∧
      encode .itemEsc7D = some [0x7D#8, 0x5D#8] ∧
    (Instr.frame 0x00#8 []).wf = true ∧ isWireString (.frame 0x00#8 []) = true ∧
      encode (.frame 0x00#8 []) =
        some [0x7E#8, 0x00#8, 0x00#8, 0x00#8, 0x00#8, 0x00#8, 0x1D#8, 0xF7#8, 0x22#8, 0xC6#8, 0x7E#8] := by
  decide

theorem witness_AcceptedWireStringsAreEncodings :
    decode [0x7D#8, 0x00#8, 0x41#8] = .ok (.itemNoncanon 0x00#8, [0x41#8]) := by rfl

theorem witness_FrameLengthAndDelimiters : ([0x7E#8, 0x01#8, 0x7D#8] : List Byte).length < 2 ^ 32 := by
  decide

theorem witness_SofResult : State.reset.rxState = .waitStart := by decide

theorem witness_DropResult : State.reset.rxState = .waitStart ∧ (0x7D#8 : Byte) ≠ 0x7E#8 := by decide

theorem witness_UnescapeStageResult :
    (at0 .readType false).rxState.isContent = true ∧ (at0 .readType false).rxEsc = false ∧
      (at0 .readCrc true).rxState.isContent = true ∧ (at0 .readCrc true).rxEsc = true ∧
      (0x7E#8 : Byte) ≠ 0x7D#8 := by decide

theorem witness_TypeByteResult :
    (at0 .readType false).rxState = .readType ∧ (at0 .readType true).rxState = .readType ∧
      (at0 .readType false).delivered (.rxStep 0x7E#8) = some 0x7E#8 ∧
      (at0 .readType true).delivered (.rxStep 0x5D#8) = some 0x7D#8 ∧
      (at0 .readType true).delivered (.xlit 0x21#8) = some 0x01#8 ∧
      (at0 .readType false).delivered (.lit 0x00#8) = some 0x00#8 ∧
      (at0 .readType false).delivered .itemEsc7E = some 0x7E#8 ∧
      (at0 .readType false).delivered .itemEsc7D = some 0x7D#8 ∧
      (at0 .readType false).delivered (.itemPlain 0xFF#8) = some 0xFF#8 ∧
      (at0 .readType false).delivered (.itemNoncanon 0x7D#8) = some 0x5D#8 := by decide

theorem witness_LengthByteResult :
    (inLength 2#3 0x2A511F19#32).rxState = .readLength ∧
      (inLength 2#3 0x2A511F19#32).delivered (.lit 0x00#8) = some 0x00#8 ∧
      (inLength 2#3 0x2A511F19#32).rxLenCnt < 3#3 ∧
      (inLength 0#3 0x5AFA20E4#32).rxLenCnt < 3#3 ∧
      (inLength 3#3 0x6441F9DF#32).rxState = .readLength ∧
      (inLength 3#3 0x6441F9DF#32).delivered (.rxStep 0x00#8) = some 0x00#8 ∧
      (inLength 3#3 0x6441F9DF#32).rxLenCnt = 3#3 := by decide

theorem witness_PayloadByteResult :
    (inData 600#32 255#32 255 [] 0#32).rxState = .readData ∧
      (inData 600#32 255#32 255 [] 0#32).delivered (.rxStep 0x41#8) = some 0x41#8 ∧
      (inData 600#32 255#32 255 [] 0#32).rxRead < (inData 600#32 255#32 255 [] 0#32).rxLen ∧
      (inData 600#32 255#32 255 [] 0#32).rxBufN < 256 ∧
      (inData 600#32 255#32 255 [] 0#32).rxBuf.wf = true ∧
      (inData 1#32 0#32 0 [] 0#32).rxState = .readData ∧
      (inData 1#32 0#32 0 [] 0#32).delivered .itemEsc7E = some 0x7E#8 ∧
      (inData 1#32 0#32 0 [] 0#32).rxRead < (inData 1#32 0#32 0 [] 0#32).rxLen ∧
      (inData 1#32 0#32 0 [] 0#32).rxBufN < 256 ∧
      (inData 1#32 0#32 0 [] 0#32).rxBuf.wf = true := by decide

theorem witness_ChecksumByteResult :
    (inCrc 0#3 0#32).delivered (.lit 0xF0#8) = some 0xF0#8 ∧ (inCrc 0#3 0#32).rxState = .readCrc ∧
      (inCrc 0#3 0#32).rxSumCnt < 3#3 ∧ (inCrc 2#3 0x0000BCF0#32).rxSumCnt < 3#3 ∧
      (inCrc 3#3 0x00A0BCF0#32).delivered (.lit 0xF1#8) = some 0xF1#8 ∧
      (inCrc 3#3 0x00A0BCF0#32).rxState = .readCrc ∧ (inCrc 3#3 0x00A0BCF0#32).rxSumCnt = 3#3 ∧
      (inData 0#32 0#32 0 [] 0#32).delivered (.lit 0x1D#8) = some 0x1D#8 ∧
      (inData 0#32 0#32 0 [] 0#32).rxState = .readData ∧
      ¬ (inData 0#32 0#32 0 [] 0#32).rxRead < (inData 0#32 0#32 0 [] 0#32).rxLen ∧
      (inData 0#32 0#32 0 [] 0#32).rxSumCnt < 3#3 := by decide

theorem witness_EmptyPayloadTakesChecksum :
    (inData 0#32 0#32 0 [] 0#32).rxState = .readData ∧
      (inData 0#32 0#32 0 [] 0#32).delivered (.rxStep 0x1D#8) = some 0x1D#8 ∧
      (inData 0#32 0#32 0 [] 0#32).rxLen = 0#32 ∧ (inData 0#32 0#32 0 [] 0#32).rxRead = 0#32 ∧
      (inData 0#32 0#32 0 [] 0#32).rxSum = 0#32 ∧ (inData 0#32 0#32 0 [] 0#32).rxSumCnt = 0#3 := by
  decide

theorem witness_EndOfFrameResult :
    (inEnd 0xF1A0BCF0#32).rxState = .expectEnd ∧ (0x7D#8 : Byte) ≠ 0x7E#8 := by decide

/-- Every row with a wire encoding, well-formed at a boundary value of its operand. -/
theorem witness_WireRowsDeliverTheirBytes :
    Instr.sof.wf = true ∧ encode .sof = some [0x7E#8] ∧
    (Instr.drop 0x7D#8).wf = true ∧ encode (.drop 0x7D#8) = some [0x7D#8] ∧
    (Instr.xlit 0x7E#8).wf = true ∧ encode (.xlit 0x7E#8) = some [0x7E#8] ∧
    Instr.esc.wf = true ∧ encode .esc = some [0x7D#8] ∧
    (Instr.lit 0x7E#8).wf = true ∧ encode (.lit 0x7E#8) = some [0x7E#8] ∧
    Instr.eof.wf = true ∧ encode .eof = some [0x7E#8] ∧
    (Instr.badeof 0x7D#8).wf = true ∧ encode (.badeof 0x7D#8) = some [0x7D#8] := by decide

/-- One wire byte for each row of rule R151's table, with the state it leads to, from states that meet the invariant (inv_… above; reset is the first). -/
theorem witness_TransitionTable :
    after (exec (.rxStep 0x7E#8) State.reset) (·.rxState) = some .readType ∧
    after (exec (.rxStep 0x7D#8) State.reset) (·.rxState) = some .waitStart ∧
    after (exec (.rxStep 0x7D#8) (inCrc 2#3 0x0000BCF0#32)) (·.rxState) = some .readCrc ∧
    after (exec (.rxStep 0x7E#8) (at0 .readType false)) (·.rxState) = some .readLength ∧
    after (exec (.rxStep 0x00#8) (inLength 2#3 0x2A511F19#32)) (·.rxState) = some .readLength ∧
    after (exec (.rxStep 0x00#8) (inLength 3#3 0x6441F9DF#32)) (·.rxState) = some .readData ∧
    after (exec (.rxStep 0x41#8) (inData 3#32 0#32 0 [] 0x16088EBC#32)) (·.rxState) = some .readData ∧
    after (exec (.rxStep 0x41#8) (inData 600#32 255#32 255 [] 0#32)) (fun t => (t.rxState, t.rxBufN)) =
      some (.readData, 0) ∧
    after (exec (.rxStep 0x41#8)
      (inData 3#32 2#32 2 [(0, 0x7E#8), (1, 0x01#8)] 0x84CB3D75#32)) (·.rxState) = some .readCrc ∧
    after (exec (.rxStep 0x1D#8) (inData 0#32 0#32 0 [] 0x39DD08E2#32)) (·.rxState) = some .readCrc ∧
    after (exec (.rxStep 0xA0#8) (inCrc 2#3 0x0000BCF0#32)) (·.rxState) = some .readCrc ∧
    after (exec (.rxStep 0xF1#8) (inCrc 3#3 0x00A0BCF0#32)) (·.rxState) = some .expectEnd ∧
    after (exec (.rxStep 0x00#8) (inEnd 0xF1A0BCF0#32)) (·.rxState) = some .waitStart := by decide

theorem witness_AtMostOneEventPerStep :
    ∃ t, rxByte Config.hardware 0x00#8 (inLength 3#3 0x6441F9DF#32) = .next t := ⟨_, rfl⟩

theorem witness_GarbageWithoutDelimiterIsDropped :
    State.reset.rxState = .waitStart ∧ frameDelim ∉ ([0x00#8, 0xFF#8, 0x7D#8, 0x41#8] : List Byte) := by
  decide

theorem witness_RawVariantBehaviour :
    (at0 .readType true).rxState.isContent = true ∧ State.reset.rxEsc = false ∧
      (∃ t, rxByte Config.hardware.rawVariant 0x7D#8 (at0 .readType false) = .next t) ∧
      ([0x41#8, 0x42#8, 0x43#8] : List Byte).length < 2 ^ 32 ∧
      frameDelim ∉ frameLogical 0x10#8 3#32 [0x41#8, 0x42#8, 0x43#8] ∧
      escapeMark ∉ frameLogical 0x10#8 3#32 [0x41#8, 0x42#8, 0x43#8] :=
  ⟨by decide, by decide, ⟨_, rfl⟩, by decide, by decide +kernel, by decide +kernel⟩

theorem witness_OneByteReceiveFrame :
    (Instr.rxStep 0x41#8).wf = true ∧ (Instr.lit 0x41#8).wf = true ∧
      encode (.lit 0x41#8) = some [0x41#8] ∧
      (inData 600#32 255#32 255 [] 0#32).rxBuf.wf = true ∧
      (inData 600#32 255#32 255 [] 0#32).storeIndex Config.hardware 0x41#8 = some 255 ∧
      (inData 600#32 255#32 255 [] 0#32).storeIndex Config.hardware 0x7D#8 = none ∧
      (∃ t, exec (.lit 0x41#8) (inData 600#32 255#32 255 [] 0#32) = .next t) :=
  ⟨by decide, by decide, by decide, by decide, by decide, by decide, ⟨_, rfl⟩⟩

theorem witness_ReceivingLeavesTheRestAlone :
    isReceive (.frame 0x00#8 []) = true ∧ isReceive .itemEsc7E = true ∧
      (∃ t, exec .itemEsc7E (at0 .readType false) = .next t) := ⟨by decide, by decide, ⟨_, rfl⟩⟩

theorem witness_TxSendResult : ([0x09#8] : List Byte).length = (1#32 : Word).toNat := by decide

theorem witness_WrongPayloadLengthIsRefused :
    ([0x09#8] : List Byte).length ≠ (2#32 : Word).toNat ∧
      2 ^ 32 ≤ (List.replicate (2 ^ 32) (0#8 : Byte)).length :=
  ⟨by decide, by rw [List.length_replicate]⟩

theorem witness_ReceiveAndSendCommute :
    isReceive (.rxStep 0x7E#8) = true ∧ ([] : List Byte).length = (0#32 : Word).toNat := by decide

theorem witness_EventRowResults :
    1 ≤ (inData 300#32 1#32 1 [] 0#32).rxBufN ∧ (inData 300#32 256#32 256 [] 0#32).rxBufN ≤ 256 ∧
      State.reset.rxBufN = 0 := by decide

theorem witness_BufferWriteLaw :
    0 < Config.hardware.chunkCap ∧ 255 < Config.hardware.chunkCap ∧
      (inData 3#32 1#32 1 [(0, 0x41#8)] 0#32).rxBuf.wf = true ∧
      (inData 3#32 1#32 1 [(0, 0x41#8)] 0#32).rxBuf.within Config.hardware.chunkCap = true := by decide

theorem witness_OutOfRangeBufferFaults :
    (inData 600#32 256#32 256 [] 0#32).rxState = .readData ∧
      (inData 600#32 256#32 256 [] 0#32).delivered (.lit 0x41#8) = some 0x41#8 ∧
      (inData 600#32 256#32 256 [] 0#32).rxRead < (inData 600#32 256#32 256 [] 0#32).rxLen ∧
      256 ≤ (inData 600#32 256#32 256 [] 0#32).rxBufN ∧
      256 < (inData 600#32 257#32 257 [] 0#32).rxBufN := by decide

theorem witness_StepRunsTheNextOperation :
    (issueNext .crcSeed State.reset).pending = .crcSeed :: [] ∧ State.reset.pending = [] := by decide

theorem witness_PlacedWordRunsNext :
    decodeTableWord 8 0x7E = some .sof ∧ decodeTableWord 16 0x7D5D = some .itemEsc7D := by decide

theorem witness_StepKeepsInv :
    (issueNext (.rxStep 0x7E#8) (at0 .readType false)).Inv Config.hardware ∧
      ∃ t, step (issueNext (.rxStep 0x7E#8) (at0 .readType false)) = .next t :=
  ⟨by constructor <;> decide, ⟨_, rfl⟩⟩

theorem witness_NoOperationFails :
    (Instr.txSend 0x00#8 1#32 [0x09#8]).wf = true ∧ (Instr.frame 0x00#8 []).wf = true ∧
      State.reset.Inv Config.hardware :=
  ⟨by decide, by decide, by constructor <;> decide⟩

theorem witness_RxByteTotalForEveryBuild :
    Config.wf { chunkCap := 1, rxUnescape := false } ∧
      (at0 .readType false).Inv { chunkCap := 1, rxUnescape := false } :=
  ⟨by decide, by constructor <;> decide⟩

/-- V51: ten bytes in chunks of four. -/
theorem witness_ChunkingLaw :
    1 ≤ 4 ∧ chunks 4 [1#8, 2#8, 3#8, 4#8, 5#8, 6#8, 7#8, 8#8, 9#8, 10#8] =
      [[1#8, 2#8, 3#8, 4#8], [5#8, 6#8, 7#8, 8#8], [9#8, 10#8]] := by decide

theorem witness_SentFramesAreReceived :
    Config.hardware.wf ∧ Config.hardware.rxUnescape = true ∧
      ([0x09#8] : List Byte).length = (1#32 : Word).toNat ∧ State.reset.idle ∧
      State.reset.rxBuf.wf = true := ⟨by decide, rfl, by decide, ⟨rfl, rfl⟩, by decide⟩

theorem witness_FrameRowDeliversItsPacket :
    ([0x7E#8, 0x01#8, 0x7D#8] : List Byte).length < 2 ^ 32 ∧ State.reset.idle ∧
      State.reset.rxBuf.wf = true := ⟨by decide, ⟨rfl, rfl⟩, by decide⟩

/-- V42 (b): a string no serializer produces. -/
theorem witness_ValidWireStringsAreAccepted :
    Config.hardware.wf ∧ Config.hardware.rxUnescape = true ∧ State.reset.idle ∧
      State.reset.rxBuf.wf = true ∧ ([0x5D#8, 0x5E#8] : List Byte).length = (2#32 : Word).toNat ∧
      stuffDecAll false
        [0x00#8, 0x02#8, 0x00#8, 0x00#8, 0x00#8, 0x7D#8, 0x7D#8, 0x7D#8, 0x7E#8, 0x9F#8, 0x21#8,
          0x62#8, 0x53#8] = (false, frameLogical 0x00#8 2#32 [0x5D#8, 0x5E#8]) :=
  ⟨by decide, rfl, ⟨rfl, rfl⟩, by decide, by decide, by decide +kernel⟩

/-- V21: the string of the shortest frame. -/
theorem witness_AcceptedWireStringsAreValid :
    Config.hardware.wf ∧ Config.hardware.rxUnescape = true ∧ State.reset.idle ∧
      State.reset.rxBuf.wf = true ∧ (∀ e ∈ ([] : List Event), ∃ ty n bs, e = .data ty n bs) ∧
      after (rxBytes Config.hardware
          (frameDelim :: ([0x00#8, 0x00#8, 0x00#8, 0x00#8, 0x00#8, 0x1D#8, 0xF7#8, 0x22#8, 0xC6#8] ++
            [frameDelim])) State.reset) (fun t => (t.rxState, t.events)) =
        some (.waitStart, State.reset.events ++ .start 0x00#8 0#32 :: ([] ++ [.finished 0x00#8 true])) :=
  ⟨by decide, rfl, ⟨rfl, rfl⟩, by decide, by simp, by decide⟩

theorem witness_EventsFollowTheGrammar :
    Config.hardware.wf ∧ (inData 600#32 255#32 255 [] 0#32).Inv Config.hardware :=
  ⟨by decide, inv_inData_full⟩

/-- V72: between packets, with arbitrary values in the session registers. -/
theorem witness_SessionValuesNeverShow :
    Config.hardware.wf ∧ State.reset.idle ∧ State.reset.rxBuf.wf = true ∧
      State.idle { inEnd 0xFFFFFFFF#32 with rxState := .waitStart, rxBufN := 200, rxBuf := [(7, 0x55#8)] } ∧
      Memory.wf [(7, 0x55#8)] = true :=
  ⟨by decide, ⟨rfl, rfl⟩, by decide, ⟨rfl, rfl⟩, by decide⟩

theorem witness_PacketIsCountedOut :
    Config.hardware.wf ∧ (inData 3#32 2#32 2 [(0, 0x7E#8), (1, 0x01#8)] 0x84CB3D75#32).Inv Config.hardware ∧
      (inData 3#32 2#32 2 [(0, 0x7E#8), (1, 0x01#8)] 0x84CB3D75#32).rxState = .readData ∧
      (inData 3#32 2#32 2 [(0, 0x7E#8), (1, 0x01#8)] 0x84CB3D75#32).rxEsc = false ∧
      escapeMark ∉ ([0x7E#8, 0xF0#8, 0xBC#8, 0xA0#8, 0xF1#8, 0x7E#8] : List Byte) ∧
      ([0x7E#8, 0xF0#8, 0xBC#8, 0xA0#8, 0xF1#8, 0x7E#8] : List Byte).length =
        ((3#32 : Word) - 2#32).toNat + 5 :=
  ⟨by decide, inv_inData_last, by decide, by decide, by decide, by decide⟩

end Sys2Proof.Tests
end

section
/-! The little-endian fields (rule R74): a merge seen one byte lane at a time, and the two inverses. -/

namespace Sys2Proof.Machine

/-- A merge ORs the byte into its own lane. -/
theorem byteAt_mergeLane_same (acc : Word) {k : Nat} (b : Byte) (hk : k < 4) :
    byteAt (mergeLane acc k b) k = byteAt acc k ||| b := by
  ext i hi
  have inWord : 8 * k + i < 32 := by omega
  simp [byteAt, mergeLane, zext32, inWord, hi]

/-- A merge leaves every other lane as it was. -/
theorem byteAt_mergeLane_other (acc : Word) {j k : Nat} (b : Byte) (hjk : j ≠ k) :
    byteAt (mergeLane acc k b) j = byteAt acc j := by
  ext i hi
  have outsideLane : 8 * j + i < 8 * k ∨ 8 ≤ 8 * j + i - 8 * k := by omega
  rcases outsideLane with below | above
  · simp [byteAt, mergeLane, zext32, below]
  · simp [byteAt, mergeLane, zext32, BitVec.getLsbD_of_ge b _ above]

/-- A word is determined by its four bytes. -/
theorem eq_of_byteAt_eq {v w : Word} (h : ∀ k < 4, byteAt v k = byteAt w k) : v = w := by
  ext i hi
  have lane : (byteAt v (i / 8)).getLsbD (i % 8) = (byteAt w (i / 8)).getLsbD (i % 8) := by
    rw [h (i / 8) (by omega)]
  have inLane : i % 8 < 8 := Nat.mod_lt i (by decide)
  simpa [byteAt, inLane, Nat.div_add_mod, hi] using lane

@[simp] theorem byteAt_zero (k : Nat) : byteAt 0#32 k = 0#8 := by simp [byteAt]

/-- Cutting four merged bytes gives the bytes back. -/
theorem le32_ofLe32 (b0 b1 b2 b3 : Byte) : le32 (ofLe32 b0 b1 b2 b3) = [b0, b1, b2, b3] := by
  simp [le32, ofLe32, byteAt_mergeLane_same, byteAt_mergeLane_other]

/-- Two words with the same little-endian bytes are equal. -/
theorem le32_injective : Function.Injective le32 := by
  intro v w h
  obtain ⟨h0, h1, h2, h3⟩ : byteAt v 0 = byteAt w 0 ∧ byteAt v 1 = byteAt w 1 ∧
      byteAt v 2 = byteAt w 2 ∧ byteAt v 3 = byteAt w 3 := by simpa [le32] using h
  refine eq_of_byteAt_eq fun k hk => ?_
  interval_cases k <;> assumption

/-- Merging a word's four bytes from 0 gives the word back. -/
theorem ofLe32_byteAt (v : Word) :
    ofLe32 (byteAt v 0) (byteAt v 1) (byteAt v 2) (byteAt v 3) = v :=
  le32_injective (le32_ofLe32 _ _ _ _)

/-- Settles O13, from the two inverses above; the slices are `byteAt` at lanes 0 to 3. -/
theorem littleEndianFieldsAreInverse : Obligations.LittleEndianFieldsAreInverse :=
  ⟨fun v => ⟨rfl, ofLe32_byteAt v⟩, le32_ofLe32⟩

end Sys2Proof.Machine
end

section
/-! The wire symbols (rule R77): the reading of a byte in the states that look for a delimiter, and in the content states. -/

namespace Sys2Proof.Machine

@[simp] theorem symbolAt_waitStart (cfg : Config) (p : Bool) (w : Byte) :
    symbolAt cfg .waitStart p w = if w = frameDelim then .sof else .drop := rfl

@[simp] theorem symbolAt_expectEnd (cfg : Config) (p : Bool) (w : Byte) :
    symbolAt cfg .expectEnd p w = if w = frameDelim then .eof else .badeof := rfl

/-- The four content states read a byte alike (rules R77, R152). -/
theorem symbolAt_content (cfg : Config) {st : RxState} (hst : st.isContent = true) (p : Bool)
    (w : Byte) :
    symbolAt cfg st p w =
      if cfg.rxUnescape then if p then .xlit else if w = escapeMark then .esc else .lit
      else .lit := by
  cases st with
  | waitStart | expectEnd => exact absurd hst (by decide)
  | readType | readLength | readData | readCrc => rfl

/-- Settles O14, row by row from the readings by state. -/
theorem wireSymbolTable : Obligations.WireSymbolTable := by
  intro w
  refine ⟨fun h => ?sof, fun h => ?drop, fun st hst => ⟨?xlit, fun h => ?esc, fun h => ?lit, ?raw⟩,
    fun h => ?eof, fun h => ?badeof⟩
  case sof | drop | eof | badeof => simp [h]
  case xlit | raw => simp [symbolAt_content _ hst]
  case esc | lit => simp [symbolAt_content _ hst, h]

end Sys2Proof.Machine
end

section
/-! CRC.SEED (rule R106): what it shows on the CRC port, and the worked example of the first fold. -/

namespace Sys2Proof.Machine

/-- CRC.SEED is one result on the CRC function port (rules R81, R106). -/
theorem exec_crcSeed (s : State) : exec .crcSeed s = .next (s.putCrc crcSeedValue) := rfl

/-- The update by the table function, where the model reads CRC_T (rules R33, R102). -/
theorem crcUpdateFn_eq_crcTableFn (c : Word) (b : Byte) :
    crcUpdateFn c b = crcTableFn (byteAt (c ^^^ zext32 b) 0) ^^^ (c >>> 8) := by
  rw [crcUpdateFn, tblRead_eq_crcTableFn]

/-- Folding 0x00 into the seed looks up entry 0xFF, the seed's own low byte. -/
theorem crcUpdateFn_crcSeedValue_zero : crcUpdateFn crcSeedValue 0x00#8 = 0x2DFD1072#32 :=
  calc crcUpdateFn crcSeedValue 0x00#8
    _ = crcTableFn (byteAt (crcSeedValue ^^^ zext32 0x00#8) 0) ^^^ (crcSeedValue >>> 8) :=
        crcUpdateFn_eq_crcTableFn _ _
    _ = crcTableFn 0xFF#8 ^^^ 0x00FFFFFF#32 := by
        rw [show byteAt (crcSeedValue ^^^ zext32 0x00#8) 0 = 0xFF#8 by decide,
          show crcSeedValue >>> 8 = 0x00FFFFFF#32 by decide]
    _ = 0x2D02EF8D#32 ^^^ 0x00FFFFFF#32 := by
        rw [show crcTableFn 0xFF#8 = 0x2D02EF8D#32 by decide]
    _ = 0x2DFD1072#32 := by decide

/-- Settles O2, from the operation's meaning (`putCrc` writes the CRC port alone) and the first fold. -/
theorem crcSeedResult : Obligations.CrcSeedResult :=
  ⟨exec_crcSeed, crcUpdateFn_crcSeedValue_zero⟩

end Sys2Proof.Machine
end

section
/-! STUFF.ENC (rule R120): what it shows on the codec port, and the encoder's value table. -/

namespace Sys2Proof.Machine

/-- STUFF.ENC is one result on the codec function port (rules R81, R120). -/
theorem exec_stuffEnc (b : Byte) (s : State) :
    exec (.stuffEnc b) s = .next (s.putCodec (.encoded (stuffEncFn b))) := rfl

/-- The encoder's value table (rule R120), with the XOR of each reserved value worked out. -/
theorem stuffEncFn_eq_ite (b : Byte) :
    stuffEncFn b =
      if b = frameDelim then [escapeMark, 0x5E#8]
      else if b = escapeMark then [escapeMark, 0x5D#8] else [b] := by
  rcases stuffEncFn_cases b with ⟨rfl, pair⟩ | ⟨rfl, pair⟩ | ⟨notDelim, notMark, plain⟩
  · rw [pair, if_pos rfl]
  · rw [pair, if_neg (by decide), if_pos rfl]
  · rw [plain, if_neg notDelim, if_neg notMark]

/-- Settles O9, from the operation's meaning (`putCodec` writes the codec port alone) and the value table. -/
theorem stuffEncResult : Obligations.StuffEncResult := by
  intro b s
  rw [exec_stuffEnc, stuffEncFn_eq_ite]
  rfl

end Sys2Proof.Machine
end

section
/-! One wire byte by its symbol (rules R77, R132): the symbol inverted into its context, the unescape stage on this hardware, and the symbol rows as deliveries of their byte. -/

namespace Sys2Proof.Machine

/-! ### The symbol of a byte, inverted -/

theorem State.symbol_content {s : State} (hc : s.rxState.isContent = true) (w : Byte) :
    s.symbol w = if s.rxEsc then .xlit else if w = escapeMark then .esc else .lit :=
  symbolAt_content Config.hardware hc s.rxEsc w

/-- Every byte has exactly one row of rule R77's table, and the symbol tells the row. -/
theorem State.symbol_cases (s : State) (w : Byte) :
    (s.rxState = .waitStart ∧ w = frameDelim ∧ s.symbol w = .sof) ∨
    (s.rxState = .waitStart ∧ w ≠ frameDelim ∧ s.symbol w = .drop) ∨
    (s.rxState.isContent = true ∧ s.rxEsc = true ∧ s.symbol w = .xlit) ∨
    (s.rxState.isContent = true ∧ s.rxEsc = false ∧ w = escapeMark ∧ s.symbol w = .esc) ∨
    (s.rxState.isContent = true ∧ s.rxEsc = false ∧ w ≠ escapeMark ∧ s.symbol w = .lit) ∨
    (s.rxState = .expectEnd ∧ w = frameDelim ∧ s.symbol w = .eof) ∨
    (s.rxState = .expectEnd ∧ w ≠ frameDelim ∧ s.symbol w = .badeof) := by
  cases hs : s.rxState with
  | waitStart | expectEnd => by_cases hw : w = frameDelim <;> simp [State.symbol, hs, hw]
  | readType | readLength | readData | readCrc =>
    have hc : s.rxState.isContent = true := by rw [hs]; rfl
    rw [State.symbol_content hc]
    cases s.rxEsc
    · by_cases hw : w = escapeMark <;> simp [hw, RxState.isContent]
    · simp [RxState.isContent]

/-! ### RX.STEP in a content state (rule R132) -/

/-- XLIT: the byte after an escape marker. -/
theorem rxByte_of_pending {s : State} (hc : s.rxState.isContent = true) (hp : s.rxEsc = true)
    (w : Byte) :
    rxByte Config.hardware w s =
      logicalByte Config.hardware (w ^^^ escapeMask) (s.setRxEsc false) := by
  rw [rxByte_content _ _ _ hc, hp]
  rfl

/-- ESC: the escape marker. -/
theorem rxByte_escapeMark {s : State} (hc : s.rxState.isContent = true) (hp : s.rxEsc = false) :
    rxByte Config.hardware escapeMark s = .next (s.setRxEsc true) := by
  rw [rxByte_content _ _ _ hc, hp]
  rfl

/-- LIT: any other byte. -/
theorem rxByte_of_ne_escapeMark {s : State} (hc : s.rxState.isContent = true)
    (hp : s.rxEsc = false) {w : Byte} (hw : w ≠ escapeMark) :
    rxByte Config.hardware w s = logicalByte Config.hardware w s := by
  rw [rxByte_content _ _ _ hc, hp]
  simp [unescapeStage, stuffDecFn, hw, deliverLogical, State.setRxEsc_of_eq s false hp]

theorem rxBytes_singleton (cfg : Config) (w : Byte) (s : State) :
    rxBytes cfg [w] s = rxByte cfg w s := by
  rw [rxBytes_cons]
  cases rxByte cfg w s <;> rfl

/-- A two-byte item (rules R75, R78): ESC, then XLIT. -/
theorem rxBytes_pair {s : State} (hc : s.rxState.isContent = true) (hp : s.rxEsc = false)
    (x : Byte) :
    rxBytes Config.hardware [escapeMark, x] s =
      logicalByte Config.hardware (x ^^^ escapeMask) (s.setRxEsc false) := by
  calc rxBytes Config.hardware [escapeMark, x] s
    _ = rxBytes Config.hardware [x] (s.setRxEsc true) := by
        rw [rxBytes_cons, rxByte_escapeMark hc hp, Result.andThen_next]
    _ = rxByte Config.hardware x (s.setRxEsc true) := rxBytes_singleton _ _ _
    _ = logicalByte Config.hardware (x ^^^ escapeMask) ((s.setRxEsc true).setRxEsc false) :=
        rxByte_of_pending (s := s.setRxEsc true) hc rfl x
    _ = logicalByte Config.hardware (x ^^^ escapeMask) (s.setRxEsc false) := by
        rw [State.setRxEsc_setRxEsc]

/-! ### The symbol rows are RX.STEP on their byte, in every state -/

theorem exec_sof (s : State) : exec .sof s = rxByte Config.hardware frameDelim s := by
  show execSof s = _
  unfold execSof
  split
  · next hy =>
    have hs : s.rxState = .waitStart := by simpa [hy] using s.symbol_cases frameDelim
    rw [rxByte_waitStart _ _ _ hs, if_pos rfl]
  · rfl

theorem exec_esc (s : State) : exec .esc s = rxByte Config.hardware escapeMark s := by
  show execEsc s = _
  unfold execEsc
  split
  · next hy =>
    obtain ⟨hc, hp⟩ : s.rxState.isContent = true ∧ s.rxEsc = false := by
      simpa [hy] using s.symbol_cases escapeMark
    exact (rxByte_escapeMark hc hp).symm
  · rfl

theorem exec_xlit (w : Byte) (s : State) : exec (.xlit w) s = rxByte Config.hardware w s := by
  show execXlit w s = _
  unfold execXlit
  split
  · next hy =>
    obtain ⟨hc, hp⟩ : s.rxState.isContent = true ∧ s.rxEsc = true := by
      simpa [hy] using s.symbol_cases w
    exact (rxByte_of_pending hc hp w).symm
  · rfl

theorem exec_lit (w : Byte) (s : State) : exec (.lit w) s = rxByte Config.hardware w s := by
  show execLit w s = _
  unfold execLit
  split
  · next hy =>
    obtain ⟨hc, hp, hw⟩ : s.rxState.isContent = true ∧ s.rxEsc = false ∧ w ≠ escapeMark := by
      simpa [hy] using s.symbol_cases w
    exact (rxByte_of_ne_escapeMark hc hp hw).symm
  · rfl

/-- Settles O20: both rows are RX.STEP on the delimiter. -/
theorem sofResult : Obligations.SofResult := by
  intro s hs
  have step : rxByte Config.hardware frameDelim s = .next (s.setRxState .readType) := by
    rw [rxByte_waitStart _ _ _ hs, if_pos rfl]
  exact ⟨(exec_sof s).trans step, step⟩

/-- Settles O22: each symbol row is RX.STEP on its byte, whose three cases are the stage's. -/
theorem unescapeStageResult : Obligations.UnescapeStageResult := by
  intro w s hc
  refine ⟨fun hp => ?esc, fun hp => ?xlit, fun hp hw => ?lit⟩
  case esc => exact ⟨(exec_esc s).trans (rxByte_escapeMark hc hp), rxByte_escapeMark hc hp⟩
  case xlit => exact ⟨(exec_xlit w s).trans (rxByte_of_pending hc hp w), rxByte_of_pending hc hp w⟩
  case lit =>
    exact ⟨(exec_lit w s).trans (rxByte_of_ne_escapeMark hc hp hw),
      rxByte_of_ne_escapeMark hc hp hw⟩

end Sys2Proof.Machine
end

section
/-! One logical byte (rules R135 to R144): whichever row delivers it, LOGICAL gets it with no escape pending; then what LOGICAL does with it, state by state. -/

namespace Sys2Proof.Machine

/-! ### Delivery -/

/-- A row that delivers one logical byte hands it to LOGICAL and leaves no escape pending. -/
theorem exec_of_delivered {i : Instr} {b : Byte} {s : State} (hc : s.rxState.isContent = true)
    (hd : s.delivered i = some b) :
    exec i s = logicalByte Config.hardware b (s.setRxEsc false) := by
  cases hp : s.rxEsc with
  | true =>
    cases i with
    | rxStep w =>
      obtain rfl : w ^^^ escapeMask = b := by simpa [State.delivered, hp] using hd
      exact rxByte_of_pending hc hp w
    | xlit w =>
      obtain rfl : w ^^^ escapeMask = b := by simpa [State.delivered, hp] using hd
      exact (exec_xlit w s).trans (rxByte_of_pending hc hp w)
    | _ => simp [State.delivered, hp] at hd
  | false =>
    have plain {w : Byte} (hw : w ≠ escapeMark) :
        rxByte Config.hardware w s = logicalByte Config.hardware w (s.setRxEsc false) := by
      rw [State.setRxEsc_of_eq s false hp, rxByte_of_ne_escapeMark hc hp hw]
    cases i with
    | rxStep w =>
      obtain ⟨hw, rfl⟩ : w ≠ escapeMark ∧ w = b := by simpa [State.delivered, hp] using hd
      exact plain hw
    | lit w =>
      obtain ⟨hw, rfl⟩ : w ≠ escapeMark ∧ w = b := by simpa [State.delivered, hp] using hd
      exact (exec_lit w s).trans (plain hw)
    | itemPlain w =>
      obtain ⟨hw, rfl⟩ : w ≠ escapeMark ∧ w = b := by simpa [State.delivered, hp] using hd
      exact (rxBytes_singleton _ _ _).trans (plain hw)
    | itemEsc7E =>
      obtain rfl : 0x7E#8 = b := by simpa [State.delivered, hp] using hd
      exact rxBytes_pair hc hp 0x5E#8
    | itemEsc7D =>
      obtain rfl : 0x7D#8 = b := by simpa [State.delivered, hp] using hd
      exact rxBytes_pair hc hp 0x5D#8
    | itemNoncanon x =>
      obtain rfl : x ^^^ escapeMask = b := by simpa [State.delivered, hp] using hd
      exact rxBytes_pair hc hp x
    | _ => simp [State.delivered, hp] at hd

/-! ### LOGICAL, state by state (rule R135) -/

theorem logicalByte_readType (cfg : Config) (b : Byte) (s : State) (h : s.rxState = .readType) :
    logicalByte cfg b s = .next (takeType b s) := by
  simp [logicalByte, h]

theorem logicalByte_readLength (cfg : Config) (b : Byte) (s : State)
    (h : s.rxState = .readLength) : logicalByte cfg b s = .next (takeLength b s) := by
  simp [logicalByte, h]

theorem logicalByte_payload (cfg : Config) (b : Byte) (s : State) (h : s.rxState = .readData)
    (due : s.rxRead < s.rxLen) : logicalByte cfg b s = takePayload cfg b s := by
  simp [logicalByte, h, due]

/-- A checksum byte is read in READ_CRC, and in READ_DATA when no payload byte is due (rules R143, R144). -/
theorem logicalByte_checksum (cfg : Config) (b : Byte) (s : State)
    (h : s.rxState = .readCrc ∨ (s.rxState = .readData ∧ ¬ s.rxRead < s.rxLen)) :
    logicalByte cfg b s = .next (takeSum b s) := by
  rcases h with h | ⟨h, notDue⟩
  · simp [logicalByte, h]
  · simp only [logicalByte, h, if_neg notDue]

/-! ### The three-bit byte counters -/

/-- Below 3, one more byte is not the fourth. -/
theorem count_succ_ne_four {n : BitVec 3} (h : n < 3#3) : n + 1#3 ≠ 4#3 := by
  revert n
  decide

/-! ### What each state does with its byte -/

/-- Settles O23: LOGICAL takes the type. -/
theorem typeByteResult : Obligations.TypeByteResult := by
  intro i b s hs hd
  have hc : s.rxState.isContent = true := by rw [hs]; rfl
  rw [exec_of_delivered hc hd, logicalByte_readType _ _ (s.setRxEsc false) hs]
  rfl

theorem takeLength_of_lt_three (b : Byte) (s : State) (h : s.rxLenCnt < 3#3) :
    takeLength b s = mergeLength b s :=
  if_neg (count_succ_ne_four h)

theorem takeLength_of_eq_three (b : Byte) (s : State) (h : s.rxLenCnt = 3#3) :
    takeLength b s = beginData (mergeLength b s) :=
  if_pos (show s.rxLenCnt + 1#3 = 4#3 by rw [h]; rfl)

/-- Settles O24, on the two sides of the fourth length byte. -/
theorem lengthByteResult : Obligations.LengthByteResult := by
  intro i b s hs hd
  have hc : s.rxState.isContent = true := by rw [hs]; rfl
  rw [exec_of_delivered hc hd, logicalByte_readLength _ _ (s.setRxEsc false) hs]
  refine ⟨fun more => ?more, fun last => ?last⟩
  case more =>
    rw [takeLength_of_lt_three b (s.setRxEsc false) more]
    rfl
  case last =>
    rw [takeLength_of_eq_three b (s.setRxEsc false) last]
    simp [beginData, mergeLength, mergeLane, zext32, last, State.emit, State.setRxEsc]

/-- Settles O26: TAKE_SUM by either of its callers, on the two sides of the fourth checksum byte. -/
theorem checksumByteResult : Obligations.ChecksumByteResult := by
  intro i b s hd hs
  have hc : s.rxState.isContent = true := by
    rcases hs with hs | ⟨hs, -⟩ <;> rw [hs] <;> rfl
  rw [exec_of_delivered hc hd, logicalByte_checksum _ _ (s.setRxEsc false) hs]
  refine ⟨fun more => ?more, fun last => ?last⟩
  case more =>
    simp [takeSum, mergeLane, zext32, count_succ_ne_four more, State.setRxEsc]
  case last =>
    simp [takeSum, mergeLane, zext32, last, State.setRxEsc]

/-- The end of a payload byte's step (rule R141) writes the cursor, the event stream and the state. -/
theorem finishPayload_eq (cfg : Config) (s : State) :
    finishPayload cfg s =
      { s with
        rxBufN := if s.rxBufN = cfg.chunkCap ∨ s.rxRead = s.rxLen then 0 else s.rxBufN
        events := s.events ++
          if s.rxBufN = cfg.chunkCap ∨ s.rxRead = s.rxLen then [.data s.rxType s.rxBufN s.chunk]
          else []
        rxState := if s.rxRead = s.rxLen then .readCrc else s.rxState } := by
  rw [finishPayload_cases]
  by_cases complete : s.rxRead = s.rxLen
  · simp [complete, flushChunk, State.emit, State.setRxState]
  · by_cases full : s.rxBufN = cfg.chunkCap
    · simp [complete, full, flushChunk, State.emit]
    · simp [complete, full]

/-- A payload byte that fits in the buffer is stored by whichever row delivers it. -/
theorem exec_of_payload {i : Instr} {b : Byte} {s : State} (hs : s.rxState = .readData)
    (hd : s.delivered i = some b) (due : s.rxRead < s.rxLen)
    (fits : s.rxBufN < Config.hardware.chunkCap) :
    exec i s = .next (finishPayload Config.hardware (storedPayload b (s.setRxEsc false))) := by
  have hc : s.rxState.isContent = true := by rw [hs]; rfl
  rw [exec_of_delivered hc hd, logicalByte_payload _ _ (s.setRxEsc false) hs due,
    takePayload_next _ _ (s.setRxEsc false) fits]

/-- Settles O25: the byte is stored at the cursor, and the step's end reads the chunk with that byte in it. -/
theorem payloadByteResult : Obligations.PayloadByteResult := by
  intro i b s hs hd due fits canonical
  refine ⟨_, exec_of_payload hs hd due fits, ?_⟩
  rw [finishPayload_eq, storedPayload_chunk b (s.setRxEsc false) canonical]
  exact ⟨rfl, rfl, Memory.read_write_same _ _ _ canonical,
    fun a other => Memory.read_write_other _ _ _ _ other canonical, rfl, rfl,
    congrArg (ite _ RxState.readCrc) hs, rfl, rfl, rfl, rfl, rfl, rfl, ⟨rfl, rfl, rfl, rfl, rfl⟩⟩

end Sys2Proof.Machine
end

section
/-! TX.SEND (rules R162, R163): the covered bytes as one run of PUT_COVERED, the checksum as one run of PUT_PLAIN, and the operation as the two halves in turn. -/

namespace Sys2Proof.Machine

/-- TX.SEND with a payload of exactly `len` bytes is its two halves, one after the other (rules R161, R162). -/
theorem exec_txSend_of_length_eq {type : Byte} {len : Word} {payload : List Byte}
    (exact_length : payload.length = len.toNat) (s : State) :
    exec (.txSend type len payload) s = .next (sendTrailer (sendCovered type len payload s)) :=
  if_pos exact_length

/-- Type, length field and payload go through PUT_COVERED as one sequence, into a fresh accumulator. -/
theorem sendCovered_eq_foldl (type : Byte) (len : Word) (payload : List Byte) (s : State) :
    sendCovered type len payload s =
      (coveredBytes type len payload).foldl putCovered
        ((s.write frameDelim).setTxCrc crcSeedValue) := by
  simp only [coveredBytes, List.foldl_cons, List.foldl_append, sendCovered]

/-- The first half writes the delimiter and the stuffed covered bytes, and leaves their accumulator in tx_crc. -/
theorem sendCovered_eq (type : Byte) (len : Word) (payload : List Byte) (s : State) :
    sendCovered type len payload s =
      { s with
        txCrc := crcFold crcSeedValue (coveredBytes type len payload)
        txOut := s.txOut ++ frameDelim :: stuffEncAll (coveredBytes type len payload) } := by
  rw [sendCovered_eq_foldl, putCovered_foldl]
  simp [State.write, State.setTxCrc]

/-- The second half writes the stuffed checksum and the delimiter, and nothing else changes. -/
theorem sendTrailer_eq (s : State) :
    sendTrailer s =
      { s with
        txOut := s.txOut ++ (stuffEncAll (le32 (crcFinalize s.txCrc)) ++ [frameDelim]) } := by
  rw [sendTrailer, putPlain_foldl]
  simp [State.write]

/-- Settles O37, from the two halves: stuffing distributes over the append of the checksum to the covered bytes. -/
theorem txSendResult : Obligations.TxSendResult := by
  intro type len payload s exact_length
  rw [exec_txSend_of_length_eq exact_length, sendTrailer_eq, sendCovered_eq]
  simp [coveredBytes, stuffEncAll_append]

end Sys2Proof.Machine
end

section
/-! The codec over sequences (rules R72, R121, R122, R125): the stuffed bytes decode to what was stuffed, and hold no delimiter and no marker outside a pair. -/

namespace Sys2Proof.Machine

/-- The wire bytes of one logical byte decode to it, whatever follows (rules R120, R122). -/
theorem stuffDecAll_stuffEncFn_append (b : Byte) (ws : List Byte) :
    stuffDecAll false (stuffEncFn b ++ ws) =
      ((stuffDecAll false ws).1, b :: (stuffDecAll false ws).2) := by
  rcases stuffEncFn_cases b with ⟨rfl, pair⟩ | ⟨rfl, pair⟩ | ⟨-, notMark, plain⟩
  · rw [pair]; rfl
  · rw [pair]; rfl
  · rw [plain, List.singleton_append, stuffDecAll_cons, stuffDecFn_plain b notMark]
    rfl

/-- Settles O11, byte by byte. -/
theorem decodingUndoesEncoding : Obligations.DecodingUndoesEncoding := by
  intro bs
  induction bs with
  | nil => rfl
  | cons b bs ih => rw [stuffEncAll_cons, stuffDecAll_stuffEncFn_append, ih]

theorem frameDelim_notMem_stuffEncFn (b : Byte) : frameDelim ∉ stuffEncFn b := by
  rcases stuffEncFn_cases b with ⟨-, pair⟩ | ⟨-, pair⟩ | ⟨notDelim, -, plain⟩
  · rw [pair]; decide
  · rw [pair]; decide
  · rw [plain]; simpa using notDelim.symm

/-- No stuffed sequence holds the delimiter (rules R72, R121). -/
theorem frameDelim_notMem_stuffEncAll (bs : List Byte) : frameDelim ∉ stuffEncAll bs := by
  simp [stuffEncAll, frameDelim_notMem_stuffEncFn]

/-- What stands after a marker anywhere in a stuffed sequence is the second byte of a pair (rule R121). -/
theorem stuffEncAll_after_marker (bs u v : List Byte)
    (split_at : stuffEncAll bs = u ++ escapeMark :: v) :
    ∃ x v', v = x :: v' ∧ (x = 0x5E#8 ∨ x = 0x5D#8) := by
  induction bs generalizing u with
  | nil => simp at split_at
  | cons b bs ih =>
    have in_pair {x : Byte} (hx : x = 0x5E#8 ∨ x = 0x5D#8)
        (enc : stuffEncFn b = [escapeMark, x]) :
        ∃ x v', v = x :: v' ∧ (x = 0x5E#8 ∨ x = 0x5D#8) := by
      rw [stuffEncAll_cons, enc] at split_at
      match u with
      | [] => exact ⟨x, _, by simpa using split_at.symm, hx⟩
      | [m] =>
        obtain ⟨-, rfl, -⟩ : escapeMark = m ∧ x = escapeMark ∧ stuffEncAll bs = v := by
          simpa using split_at
        exact absurd hx (by decide)
      | m :: y :: u => exact ih u (List.cons.inj (List.cons.inj split_at).2).2
    rcases stuffEncFn_cases b with ⟨-, pair⟩ | ⟨-, pair⟩ | ⟨-, notMark, plain⟩
    · exact in_pair (.inl rfl) pair
    · exact in_pair (.inr rfl) pair
    · rw [stuffEncAll_cons, plain] at split_at
      match u with
      | [] => exact absurd (List.cons.inj split_at).1 notMark
      | m :: u => exact ih u (List.cons.inj split_at).2

/-- Settles O12, from the two facts above. -/
theorem encodedBytesAvoidTheDelimiter : Obligations.EncodedBytesAvoidTheDelimiter :=
  fun bs => ⟨frameDelim_notMem_stuffEncAll bs, stuffEncAll_after_marker bs⟩

/-- A reserved value has two wire bytes, any other has one (rules R75, R120). -/
theorem stuffEncFn_length (b : Byte) :
    (stuffEncFn b).length = 1 + if b == frameDelim || b == escapeMark then 1 else 0 := by
  rcases stuffEncFn_cases b with ⟨rfl, pair⟩ | ⟨rfl, pair⟩ | ⟨notDelim, notMark, plain⟩
  · rw [pair]; rfl
  · rw [pair]; rfl
  · simp [plain, notDelim, notMark]

/-- Stuffing adds one byte for each reserved value (rule R76). -/
theorem stuffEncAll_length (bs : List Byte) :
    (stuffEncAll bs).length =
      bs.length + bs.countP (fun b => b == frameDelim || b == escapeMark) := by
  induction bs with
  | nil => rfl
  | cons b bs ih =>
    rw [stuffEncAll_cons, List.length_append, ih, stuffEncFn_length, List.countP_cons,
      List.length_cons]
    omega

/-- Without reserved values stuffing changes nothing. -/
theorem stuffEncAll_eq_self {bs : List Byte} (noDelim : frameDelim ∉ bs)
    (noMark : escapeMark ∉ bs) : stuffEncAll bs = bs := by
  induction bs with
  | nil => rfl
  | cons b bs ih =>
    obtain ⟨notDelim, noDelim⟩ := List.ne_and_not_mem_of_not_mem_cons noDelim
    obtain ⟨notMark, noMark⟩ := List.ne_and_not_mem_of_not_mem_cons noMark
    rw [stuffEncAll_cons, stuffEncFn_plain b notDelim.symm notMark.symm, ih noDelim noMark]
    rfl

end Sys2Proof.Machine
end

section
/-! The wire strings (rules R70 to R78): the items of a frame read back, the frame its logical bytes make, and the two round trips of the reader. -/

namespace Sys2Proof

open Sys2Proof.Machine

/-! ### The items of a frame -/

/-- A successful reading with one logical byte put in front; a failed one as it is. -/
def consLogical (b : Byte) :
    Except DecodeError (List Byte × List Byte) → Except DecodeError (List Byte × List Byte)
  | .ok (ls, after) => .ok (b :: ls, after)
  | .error e => .error e

theorem consLogical_eq_ok {b : Byte} {r : Except DecodeError (List Byte × List Byte)}
    {ls after : List Byte} (h : consLogical b r = .ok (ls, after)) :
    ∃ ls', ls = b :: ls' ∧ r = .ok (ls', after) := by
  match r with
  | .error e => cases h
  | .ok (ls', after') => cases h; exact ⟨ls', rfl, rfl⟩

theorem readItems_delim (rest : List Byte) :
    readItems false (frameDelim :: rest) = .ok ([], rest) := by simp [readItems]

theorem readItems_mark (rest : List Byte) :
    readItems false (escapeMark :: rest) = readItems true rest := by
  simp only [readItems, if_neg (show escapeMark ≠ frameDelim by decide), if_pos]

theorem readItems_plain {b : Byte} (notDelim : b ≠ frameDelim) (notMark : b ≠ escapeMark)
    (rest : List Byte) :
    readItems false (b :: rest) = consLogical b (readItems false rest) := by
  simp only [readItems, if_neg notDelim, if_neg notMark]
  rfl

theorem readItems_second {x : Byte} (canonical : x = 0x5E#8 ∨ x = 0x5D#8) (rest : List Byte) :
    readItems true (x :: rest) = consLogical (x ^^^ escapeMask) (readItems false rest) := by
  simp only [readItems, if_pos canonical]
  rfl

theorem readItems_second_noncanon {x : Byte} (noncanon : ¬ (x = 0x5E#8 ∨ x = 0x5D#8))
    (rest : List Byte) : readItems true (x :: rest) = .error .nonCanonicalItem := by
  simp only [readItems, if_neg noncanon]

/-- One stuffed byte is read as that byte (rules R72, R75). -/
theorem readItems_stuffEncFn_append (b : Byte) (ws : List Byte) :
    readItems false (stuffEncFn b ++ ws) = consLogical b (readItems false ws) := by
  rcases stuffEncFn_cases b with ⟨rfl, pair⟩ | ⟨rfl, pair⟩ | ⟨notDelim, notMark, plain⟩
  · rw [pair]
    exact (readItems_mark _).trans (readItems_second (.inl rfl) ws)
  · rw [pair]
    exact (readItems_mark _).trans (readItems_second (.inr rfl) ws)
  · rw [plain]
    exact readItems_plain notDelim notMark ws

/-- A stuffed sequence is read back up to the closing delimiter. -/
theorem readItems_stuffEncAll_append (ls rest : List Byte) :
    readItems false (stuffEncAll ls ++ frameDelim :: rest) = .ok (ls, rest) := by
  induction ls with
  | nil => exact readItems_delim rest
  | cons b ls ih =>
    rw [stuffEncAll_cons, List.append_assoc, readItems_stuffEncFn_append, ih]
    rfl

/-- The two canonical pairs are the encoder's own (rule R120). -/
theorem stuffEncFn_of_second {x : Byte} (canonical : x = 0x5E#8 ∨ x = 0x5D#8) :
    stuffEncFn (x ^^^ escapeMask) = [escapeMark, x] := by
  rcases canonical with rfl | rfl <;> decide

/-- What is read as items was a stuffed sequence and a delimiter; after a marker, one whose marker is still owed. -/
theorem eq_stuffEncAll_of_readItems (marked : Bool) {ws ls after : List Byte}
    (read : readItems marked ws = .ok (ls, after)) :
    (if marked then escapeMark :: ws else ws) = stuffEncAll ls ++ frameDelim :: after := by
  induction ws generalizing marked ls with
  | nil => cases marked <;> cases read
  | cons w ws ih =>
    cases marked with
    | true =>
      by_cases canonical : w = 0x5E#8 ∨ w = 0x5D#8
      · rw [readItems_second canonical] at read
        obtain ⟨ls', rfl, read'⟩ := consLogical_eq_ok read
        have rest : ws = stuffEncAll ls' ++ frameDelim :: after := ih false read'
        simp [stuffEncFn_of_second canonical, rest]
      · rw [readItems_second_noncanon canonical] at read
        cases read
    | false =>
      by_cases isDelim : w = frameDelim
      · subst isDelim
        rw [readItems_delim] at read
        cases read
        rfl
      by_cases isMark : w = escapeMark
      · subst isMark
        rw [readItems_mark] at read
        exact ih true read
      · rw [readItems_plain isDelim isMark] at read
        obtain ⟨ls', rfl, read'⟩ := consLogical_eq_ok read
        have rest : ws = stuffEncAll ls' ++ frameDelim :: after := ih false read'
        simp [stuffEncFn_plain w isDelim isMark, rest]

/-! ### The frame of a sequence of logical bytes -/

@[simp] theorem le32_length (v : Word) : (le32 v).length = 4 := rfl

theorem coveredBytes_length (type : Byte) (len : Word) (payload : List Byte) :
    (coveredBytes type len payload).length = 5 + payload.length := by
  rw [coveredBytes, List.length_cons, List.length_append, le32_length]
  omega

theorem frameLogical_length (type : Byte) (len : Word) (payload : List Byte) :
    (frameLogical type len payload).length = 9 + payload.length := by
  rw [frameLogical, List.length_append, coveredBytes_length, le32_length]
  omega

/-- The length field of a payload that can be expressed (rules R7, R161). -/
theorem toNat_ofNat_length {payload : List Byte} (short : payload.length < 2 ^ 32) :
    (BitVec.ofNat 32 payload.length).toNat = payload.length := by
  rw [BitVec.toNat_ofNat, Nat.mod_eq_of_lt short]

/-- The logical bytes of a frame make that frame (rules R71, R73). -/
theorem frameOfLogical_frameLogical {type : Byte} {payload : List Byte}
    (short : payload.length < 2 ^ 32) :
    frameOfLogical (frameLogical type (BitVec.ofNat 32 payload.length) payload) =
      .ok (.frame type payload) := by
  have count := toNat_ofNat_length short
  simp [frameLogical, coveredBytes, le32, frameOfLogical, ofLe32_byteAt, count]

/-- Only a frame's logical bytes make a frame: no bit of them is free (rules R71, R73). -/
theorem eq_frameLogical_of_frameOfLogical {ls : List Byte} {i : Instr}
    (made : frameOfLogical ls = .ok i) :
    ∃ type payload, i = .frame type payload ∧ payload.length < 2 ^ 32 ∧
      ls = frameLogical type (BitVec.ofNat 32 payload.length) payload := by
  match ls with
  | [] | [_] | [_, _] | [_, _, _] | [_, _, _, _] => cases made
  | t :: l0 :: l1 :: l2 :: l3 :: tail =>
    simp only [frameOfLogical] at made
    split at made
    case isFalse => cases made
    case isTrue complete =>
    split at made
    case isFalse => cases made
    case isTrue checked =>
    cases made
    have count : (tail.take (ofLe32 l0 l1 l2 l3).toNat).length = (ofLe32 l0 l1 l2 l3).toNat := by
      simp [complete]
    refine ⟨t, _, rfl, ?_, ?_⟩
    · rw [count]
      exact (ofLe32 l0 l1 l2 l3).isLt
    · rw [count, BitVec.ofNat_toNat, BitVec.setWidth_eq]
      rw [frameLogical, coveredBytes, le32_ofLe32]
      calc t :: l0 :: l1 :: l2 :: l3 :: tail
        _ = t :: l0 :: l1 :: l2 :: l3 ::
              (tail.take (ofLe32 l0 l1 l2 l3).toNat ++ tail.drop (ofLe32 l0 l1 l2 l3).toNat) := by
            rw [List.take_append_drop]
        _ = _ := by rw [checked]; simp

/-! ### Whole items and frames -/

theorem decode_plain {b : Byte} (notDelim : b ≠ frameDelim) (notMark : b ≠ escapeMark)
    (rest : List Byte) : decode (b :: rest) = .ok (.itemPlain b, rest) := by
  simp only [decode, if_neg notDelim, if_neg notMark]

theorem decode_pair (x : Byte) (rest : List Byte) :
    decode (escapeMark :: x :: rest) = .ok (pairItem x, rest) := by
  simp only [decode, if_neg (show escapeMark ≠ frameDelim by decide), if_pos]

/-- A string that starts with the delimiter is read as a frame, or not at all. -/
theorem decode_delim_eq_ok {ws rest : List Byte} {i : Instr}
    (read : decode (frameDelim :: ws) = .ok (i, rest)) :
    ∃ ls, readItems false ws = .ok (ls, rest) ∧ frameOfLogical ls = .ok i := by
  simp only [decode, if_pos] at read
  split at read
  case h_2 => cases read
  case h_1 ls after items =>
  split at read
  case h_2 => cases read
  case h_1 made => cases read; exact ⟨ls, items, made⟩

theorem decode_frameBytes_append {type : Byte} {payload : List Byte}
    (short : payload.length < 2 ^ 32) (rest : List Byte) :
    decode (frameBytes type payload ++ rest) = .ok (.frame type payload, rest) := by
  simp [frameBytes, decode, readItems_stuffEncAll_append, frameOfLogical_frameLogical short]

/-- Settles O17, row by row. -/
theorem decodeOfEncodeIsIdentity : Obligations.DecodeOfEncodeIsIdentity := by
  intro i bs rest wellFormed wire encoded
  cases i with
  | itemEsc7E | itemEsc7D => cases encoded; exact decode_pair _ rest
  | itemPlain b =>
    obtain ⟨notDelim, notMark⟩ : b ≠ frameDelim ∧ b ≠ escapeMark := by
      simpa [Instr.wf] using wellFormed
    cases encoded
    exact decode_plain notDelim notMark rest
  | itemNoncanon x =>
    obtain ⟨not5E, not5D⟩ : x ≠ 0x5E#8 ∧ x ≠ 0x5D#8 := by simpa [Instr.wf] using wellFormed
    cases encoded
    exact (decode_pair x rest).trans (by rw [pairItem, if_neg not5E, if_neg not5D])
  | frame type payload =>
    cases encoded
    exact decode_frameBytes_append (by simpa [Instr.wf] using wellFormed) rest
  | _ => cases wire

/-- The row a pair is read as is well-formed, and its wire bytes are the pair (rules R75, R78). -/
theorem pairItem_isEncoding (x : Byte) :
    (pairItem x).wf = true ∧ isWireString (pairItem x) = true ∧
      encode (pairItem x) = some [escapeMark, x] := by
  unfold pairItem
  split
  · next h => subst h; decide
  · split
    · next h => subst h; decide
    · next not5E not5D => simp [Instr.wf, isWireString, encode, not5E, not5D]

/-- Settles O18, by the first byte: a delimiter opens a frame, a marker a pair, any other byte is an item. -/
theorem acceptedWireStringsAreEncodings : Obligations.AcceptedWireStringsAreEncodings := by
  intro ws rest i read
  match ws with
  | [] => cases read
  | b :: ws =>
    by_cases isDelim : b = frameDelim
    · subst isDelim
      obtain ⟨ls, items, made⟩ := decode_delim_eq_ok read
      obtain ⟨type, payload, rfl, short, rfl⟩ := eq_frameLogical_of_frameOfLogical made
      have stuffed : ws = _ := eq_stuffEncAll_of_readItems false items
      exact ⟨decide_eq_true short, rfl, _, rfl, by simp [frameBytes, stuffed]⟩
    by_cases isMark : b = escapeMark
    · subst isMark
      match ws with
      | [] => cases read
      | x :: ws =>
        rw [decode_pair] at read
        cases read
        obtain ⟨wellFormed, wire, encoded⟩ := pairItem_isEncoding x
        exact ⟨wellFormed, wire, _, encoded, rfl⟩
    · rw [decode_plain isDelim isMark] at read
      cases read
      exact ⟨by simp [Instr.wf, isDelim, isMark], rfl, _, rfl, rfl⟩

/-- Settles O19: the stuffed logical bytes hold no delimiter, and one more byte for each reserved value. -/
theorem frameLengthAndDelimiters : Obligations.FrameLengthAndDelimiters := by
  intro type payload _
  have noDelim := frameDelim_notMem_stuffEncAll
    (frameLogical type (BitVec.ofNat 32 payload.length) payload)
  refine ⟨?length, ?count, rfl, ?last⟩
  case length =>
    simp only [frameBytes, List.length_cons, List.length_append, List.length_nil,
      stuffEncAll_length, frameLogical_length]
    omega
  case count => simp [frameBytes, List.count_eq_zero.mpr noDelim]
  case last => rw [frameBytes, ← List.cons_append, List.getLast?_concat]

/-- Settles O15: each symbol's row is the one its byte meets the condition of. -/
theorem everyWireByteHasItsSymbol : Obligations.EveryWireByteHasItsSymbol := by
  intro st p w
  cases hc : st.isContent with
  | false =>
    cases st with
    | waitStart | expectEnd =>
      by_cases isDelim : w = frameDelim <;>
        simp [decodeSymbol, symbolInstr, Instr.wf, encode, isDelim]
    | readType | readLength | readData | readCrc => cases hc
  | true =>
    rw [decodeSymbol, symbolAt_content _ hc]
    by_cases isMark : w = escapeMark <;> cases p <;>
      simp [symbolInstr, Instr.wf, encode, isMark]

/-- The checksum of V20's covered bytes. -/
theorem crc32_coveredBytes_sample :
    crc32 (coveredBytes 0x01#8 3#32 [0x7E#8, 0x01#8, 0x7D#8]) = 0xF1A0BCF0#32 := by
  have header : crcFold crcSeedValue (0x01#8 :: le32 3#32) = 0x16088EBC#32 := by decide
  have payload : crcFold 0x16088EBC#32 [0x7E#8, 0x01#8, 0x7D#8] = 0x0E5F430F#32 := by decide
  rw [crc32, coveredBytes, ← List.cons_append, crcFold_append, header, payload]
  rfl

/-- The wire bytes of the frame of V20. -/
theorem frameBytes_sample :
    frameBytes 0x01#8 [0x7E#8, 0x01#8, 0x7D#8] =
      [0x7E#8, 0x01#8, 0x03#8, 0x00#8, 0x00#8, 0x00#8, 0x7D#8, 0x5E#8, 0x01#8, 0x7D#8, 0x5D#8,
        0xF0#8, 0xBC#8, 0xA0#8, 0xF1#8, 0x7E#8] := by
  have length : BitVec.ofNat 32 [0x7E#8, 0x01#8, 0x7D#8].length = 3#32 := rfl
  rw [frameBytes, frameLogical, length, crc32_coveredBytes_sample]
  decide

/-- Settles O16: the frame is the encoder's own, the other words are read directly. -/
theorem sampleWordsDecode : Obligations.SampleWordsDecode := by
  refine ⟨rfl, rfl, rfl, rfl, ?frame, rfl, rfl, rfl, rfl, rfl, rfl⟩
  case frame => rw [← frameBytes_sample, ← List.append_nil (frameBytes _ _),
    decode_frameBytes_append (by decide)]

end Sys2Proof
end

section
/-! The CRC engine (rules R100 to R109): the shift loop on words whose low bits are clear, the update as that loop, and the fold of a word's own bytes. -/

namespace Sys2Proof.Machine

/-! ### The table, the update and the finalization -/

/-- Settles O1: the operation shows the loop's value; the corner values are computed. -/
theorem crcTableResult : Obligations.CrcTableResult :=
  ⟨fun _ _ => rfl, by decide, by decide, by decide, by decide, by decide⟩

/-- Settles O3, from the update by the table function. -/
theorem crcUpdateResult : Obligations.CrcUpdateResult := by
  intro c b s
  rw [show exec (.crcUpdate c b) s = .next (s.putCrc (crcUpdateFn c b)) from rfl,
    crcUpdateFn_eq_crcTableFn]
  rfl

/-- Settles O4: the operation shows the XOR, which undoes itself. -/
theorem crcFinalResult : Obligations.CrcFinalResult :=
  ⟨fun _ _ => rfl, crcFinalize_crcFinalize⟩

/-! ### The loop on words whose low bits are clear (rule R105) -/

/-- Where the bits shifted out are 0, the loop is a plain shift. -/
theorem crcShift_eq_ushiftRight (k : Nat) {x : Word} (clear : ∀ i < k, x.getLsbD i = false) :
    crcShift k x = x >>> k := by
  induction k generalizing x with
  | zero => simp [crcShift]
  | succ k ih =>
    have one : crcShiftOne x = x >>> 1 := by
      rw [crcShiftOne, clear 0 (by omega), if_neg Bool.false_ne_true]
    have clearAfter : ∀ i < k, (x >>> 1).getLsbD i = false := fun i hi => by
      rw [BitVec.getLsbD_ushiftRight, clear (1 + i) (by omega)]
    rw [crcShift, one, ih clearAfter, Nat.add_comm, BitVec.shiftRight_add]

theorem crcShift_add (j k : Nat) (x : Word) : crcShift (j + k) x = crcShift k (crcShift j x) := by
  induction j generalizing x with
  | zero => rw [Nat.zero_add]; rfl
  | succ j ih => rw [Nat.succ_add, crcShift, ih, crcShift]

/-- A byte that enters above `k` clear bits has reached the bottom after `k` iterations. -/
theorem crcShift_zext32_shiftLeft {k : Nat} (inWord : k ≤ 24) (b : Byte) :
    crcShift k (zext32 b <<< k) = zext32 b := by
  rw [crcShift_eq_ushiftRight k fun i hi => by simp [hi]]
  ext i hi
  have above (outside : ¬ k + i < 32) : b.getLsbD i = false := b.getLsbD_of_ge i (by omega)
  by_cases inside : k + i < 32
  · simp [zext32, inside]
  · simp [zext32, inside, above inside]

/-- Eight iterations, the loop being linear: the low byte is looked up, the rest is shifted down. -/
theorem crcShift_eight (x : Word) : crcShift 8 x = crcTableFn (byteAt x 0) ^^^ (x >>> 8) := by
  have clear : ∀ i < 8, (zext32 (byteAt x 0) ^^^ x).getLsbD i = false := fun i hi => by
    simp [zext32, byteAt, hi, show i < 32 by omega]
  have shifted : (zext32 (byteAt x 0) ^^^ x) >>> 8 = x >>> 8 := by
    ext i hi
    simp [zext32, byteAt]
  calc crcShift 8 x
    _ = crcShift 8 (zext32 (byteAt x 0) ^^^ (zext32 (byteAt x 0) ^^^ x)) := by
        rw [← BitVec.xor_assoc, BitVec.xor_self, BitVec.zero_xor]
    _ = crcTableFn (byteAt x 0) ^^^ crcShift 8 (zext32 (byteAt x 0) ^^^ x) := crcShift_xor 8 _ _
    _ = crcTableFn (byteAt x 0) ^^^ (x >>> 8) := by
        rw [crcShift_eq_ushiftRight 8 clear, shifted]

/-- Settles O5, from eight iterations on the operands' XOR: the byte leaves no trace above the low byte. -/
theorem tableUpdateEqualsBitwiseLoop : Obligations.TableUpdateEqualsBitwiseLoop := by
  intro c b
  have above : (c ^^^ zext32 b) >>> 8 = c >>> 8 := by
    ext i hi
    simp [zext32]
  rw [crcUpdateFn_eq_crcTableFn, crcUpdateBitwise, crcShift_eight, above]

/-- The update after `k` iterations already done: the byte can be taken in at the start, in its lane. -/
theorem crcUpdateFn_crcShift {k : Nat} (inWord : k ≤ 24) (x : Word) (b : Byte) :
    crcUpdateFn (crcShift k x) b = crcShift (k + 8) (x ^^^ (zext32 b <<< k)) :=
  calc crcUpdateFn (crcShift k x) b
    _ = crcShift 8 (crcShift k x ^^^ zext32 b) := tableUpdateEqualsBitwiseLoop _ _
    _ = crcShift 8 (crcShift k (x ^^^ (zext32 b <<< k))) := by
        rw [crcShift_xor k, crcShift_zext32_shiftLeft inWord]
    _ = crcShift (k + 8) (x ^^^ (zext32 b <<< k)) := (crcShift_add k 8 _).symm

@[simp] theorem byteAt_xor (v w : Word) (k : Nat) :
    byteAt (v ^^^ w) k = byteAt v k ^^^ byteAt w k := BitVec.extractLsb'_xor ..

/-- A byte alone in its lane is a merge into the word 0. -/
theorem mergeLane_zero (k : Nat) (b : Byte) : mergeLane 0#32 k b = zext32 b <<< (8 * k) := by
  simp [mergeLane]

/-- A word is the XOR of its four bytes in their lanes. -/
theorem xor_byteAt_lanes (v : Word) :
    mergeLane 0#32 0 (byteAt v 0) ^^^ mergeLane 0#32 1 (byteAt v 1) ^^^
      mergeLane 0#32 2 (byteAt v 2) ^^^ mergeLane 0#32 3 (byteAt v 3) = v := by
  refine eq_of_byteAt_eq fun k hk => ?_
  simp only [byteAt_xor]
  interval_cases k <;> simp [byteAt_mergeLane_same, byteAt_mergeLane_other]

/-- Folding a word's four bytes is the 32-step loop on its XOR with the accumulator. -/
theorem crcFold_le32 (c v : Word) : crcFold c (le32 v) = crcShift 32 (c ^^^ v) := by
  have lanes : c ^^^ zext32 (byteAt v 0) ^^^ (zext32 (byteAt v 1) <<< 8) ^^^
      (zext32 (byteAt v 2) <<< 16) ^^^ (zext32 (byteAt v 3) <<< 24) = c ^^^ v := by
    conv_rhs => rw [← xor_byteAt_lanes v]
    simp only [mergeLane_zero, Nat.mul_zero, BitVec.shiftLeft_zero, Nat.reduceMul, BitVec.xor_assoc]
  rw [le32, crcFold_cons, crcFold_cons, crcFold_cons, crcFold_cons, crcFold_nil,
    tableUpdateEqualsBitwiseLoop c, crcUpdateBitwise, crcUpdateFn_crcShift (by decide),
    crcUpdateFn_crcShift (by decide), crcUpdateFn_crcShift (by decide), lanes]

/-- The loop's value at CRC_XOROUT, eight iterations at a time. -/
theorem crcShift_crcXorOut : crcShift 32 crcXorOut = 0xDEBB20E3#32 := by
  have byte1 : crcShift 8 crcXorOut = 0x2DFD1072#32 := by decide
  have byte2 : crcShift 8 0x2DFD1072#32 = 0xBE26ED00#32 := by decide
  have byte3 : crcShift 8 0xBE26ED00#32 = 0x00BE26ED#32 := by decide
  have byte4 : crcShift 8 0x00BE26ED#32 = 0xDEBB20E3#32 := by decide
  rw [crcShift_add 8 24, crcShift_add 8 16, crcShift_add 8 8, byte1, byte2, byte3, byte4]

/-- Settles O6: an accumulator XORed with its own finalization is CRC_XOROUT, whatever it was. -/
theorem residueIsConstant : Obligations.ResidueIsConstant := by
  intro c
  calc crcFold c (le32 (crcFinalize c))
    _ = crcShift 32 (c ^^^ crcFinalize c) := crcFold_le32 _ _
    _ = crcShift 32 crcXorOut := by
        rw [crcFinalize, ← BitVec.xor_assoc, BitVec.xor_self, BitVec.zero_xor]
    _ = 0xDEBB20E3#32 := crcShift_crcXorOut

/-- Settles O7: the two sittings, and the whole string as one after the other. -/
theorem checkStringChecksum : Obligations.CheckStringChecksum := by
  have first : crcFold crcSeedValue [0x31#8, 0x32#8, 0x33#8, 0x34#8] = 0x641C1F5C#32 := by decide
  have second : crcFold 0x641C1F5C#32 [0x35#8, 0x36#8, 0x37#8, 0x38#8, 0x39#8] = 0x340BC6D9#32 := by
    decide
  refine ⟨first, second, ?_⟩
  have whole := crcFold_append crcSeedValue [0x31#8, 0x32#8, 0x33#8, 0x34#8]
    [0x35#8, 0x36#8, 0x37#8, 0x38#8, 0x39#8]
  rw [first, second] at whole
  rw [crc32]
  exact congrArg crcFinalize whole

end Sys2Proof.Machine
end

section
/-! The function ports (rules R58, R81, R122): STUFF.DEC, and what the six operations have in common. -/

namespace Sys2Proof.Machine

/-- STUFF.DEC is one result on the codec function port (rules R81, R122). -/
theorem exec_stuffDec (p : Bool) (w : Byte) (s : State) :
    exec (.stuffDec p w) s = .next (s.putCodec (.decoded (stuffDecFn p w).1 (stuffDecFn p w).2)) :=
  rfl

/-- Settles O10, from the operation's meaning and the decoder's three cases. -/
theorem stuffDecResult : Obligations.StuffDecResult := by
  intro w s
  refine ⟨rfl, ?_⟩
  rw [exec_stuffDec]
  by_cases isMark : w = escapeMark
  · subst isMark; rfl
  · rw [stuffDecFn_plain w isMark, if_neg isMark]; rfl

theorem sameRegisters_putCrc (v : Word) (s : State) : sameRegisters s (s.putCrc v) :=
  ⟨rfl, rfl, rfl, rfl, rfl, rfl, rfl, rfl, rfl, rfl, rfl, fun _ => rfl⟩

theorem sameRegisters_putCodec (r : CodecResult) (s : State) : sameRegisters s (s.putCodec r) :=
  ⟨rfl, rfl, rfl, rfl, rfl, rfl, rfl, rfl, rfl, rfl, rfl, fun _ => rfl⟩

/-- An operation of a function port shows one result, on one of the two ports (rule R81). -/
theorem exec_functionPort {i : Instr} (port : isFunctionPort i = true) :
    (∃ v, ∀ s, exec i s = .next (s.putCrc v)) ∨ (∃ r, ∀ s, exec i s = .next (s.putCodec r)) := by
  cases i with
  | crcTable | crcSeed | crcUpdate | crcFinal => exact .inl ⟨_, fun _ => rfl⟩
  | stuffEnc | stuffDec => exact .inr ⟨_, fun _ => rfl⟩
  | _ => cases port

/-- Settles O8, by the port the result is shown on. -/
theorem functionPortsArePure : Obligations.FunctionPortsArePure := by
  intro i port
  rcases exec_functionPort port with ⟨v, shows⟩ | ⟨r, shows⟩
  · exact ⟨[v], [], rfl, fun s => ⟨_, shows s, rfl, (List.append_nil _).symm,
      sameRegisters_putCrc v s, rfl, rfl, rfl⟩⟩
  · exact ⟨[], [r], rfl, fun s => ⟨_, shows s, (List.append_nil _).symm, rfl,
      sameRegisters_putCodec r s, rfl, rfl, rfl⟩⟩

end Sys2Proof.Machine
end

section
/-! The wire rows as deliveries of their bytes (rules R77, R86, R131): every row with a wire encoding, in every state; then the results that rest on it. -/

namespace Sys2Proof.Machine

/-! ### The other symbol rows -/

theorem exec_drop (w : Byte) (s : State) : exec (.drop w) s = rxByte Config.hardware w s := by
  show execDrop w s = _
  unfold execDrop
  split
  · next hy =>
    obtain ⟨hs, hw⟩ : s.rxState = .waitStart ∧ w ≠ frameDelim := by
      simpa [hy] using s.symbol_cases w
    rw [rxByte_waitStart _ _ _ hs, if_neg hw]
  · rfl

theorem exec_eof (s : State) : exec .eof s = rxByte Config.hardware frameDelim s := by
  show execEof s = _
  unfold execEof
  split
  · next hy =>
    have hs : s.rxState = .expectEnd := by simpa [hy] using s.symbol_cases frameDelim
    rw [rxByte_expectEnd _ _ _ hs, validFlag, beq_self_eq_true, Bool.and_true]
  · rfl

theorem exec_badeof (w : Byte) (s : State) : exec (.badeof w) s = rxByte Config.hardware w s := by
  show execBadeof w s = _
  unfold execBadeof
  split
  · next hy =>
    obtain ⟨hs, hw⟩ : s.rxState = .expectEnd ∧ w ≠ frameDelim := by
      simpa [hy] using s.symbol_cases w
    rw [rxByte_expectEnd _ _ _ hs, validFlag, beq_false_of_ne hw, Bool.and_false]
  · rfl

/-! ### Every row with a wire encoding (rule R86) -/

/-- A frame whose payload has no length field is refused (assumption 13). -/
theorem exec_frame_refused {payload : List Byte} (long : ¬ payload.length < 2 ^ 32) (type : Byte)
    (s : State) : exec (.frame type payload) s = .refused .payloadLength := if_neg long

theorem exec_frame {payload : List Byte} (short : payload.length < 2 ^ 32) (type : Byte)
    (s : State) :
    exec (.frame type payload) s = rxBytes Config.hardware (frameBytes type payload) s :=
  if_pos short

/-- A wire row is the delivery of its bytes, or the frame that is refused. -/
theorem exec_of_encode {i : Instr} {bs : List Byte} (encoded : encode i = some bs) :
    (∀ s, exec i s = rxBytes Config.hardware bs s) ∨
    (i.wf = false ∧ ∀ s, exec i s = .refused .payloadLength) := by
  have one {w : Byte} (row : ∀ s, exec i s = rxByte Config.hardware w s) (s : State) :
      exec i s = rxBytes Config.hardware [w] s := (row s).trans (rxBytes_singleton _ _ _).symm
  cases i with
  | sof => cases encoded; exact .inl (one exec_sof)
  | drop w => cases encoded; exact .inl (one (exec_drop w))
  | xlit w => cases encoded; exact .inl (one (exec_xlit w))
  | esc => cases encoded; exact .inl (one exec_esc)
  | lit w => cases encoded; exact .inl (one (exec_lit w))
  | eof => cases encoded; exact .inl (one exec_eof)
  | badeof w => cases encoded; exact .inl (one (exec_badeof w))
  | itemEsc7E | itemEsc7D | itemPlain | itemNoncanon => cases encoded; exact .inl fun _ => rfl
  | frame type payload =>
    cases encoded
    by_cases short : payload.length < 2 ^ 32
    · exact .inl (exec_frame short type)
    · exact .inr ⟨decide_eq_false short, exec_frame_refused short type⟩
  | _ => cases encoded

/-- Settles O30: a well-formed row is not the refused frame. -/
theorem wireRowsDeliverTheirBytes : Obligations.WireRowsDeliverTheirBytes := by
  intro i bs s wellFormed encoded
  rcases exec_of_encode encoded with delivers | ⟨illFormed, -⟩
  · exact delivers s
  · rw [illFormed] at wellFormed
    cases wellFormed

/-- A receiving row is RX.STEP or has a wire encoding. -/
theorem rxStep_or_encode_of_isReceive {i : Instr} (receives : isReceive i = true) :
    (∃ w, i = .rxStep w) ∨ ∃ bs, encode i = some bs := by
  cases i with
  | rxStep w => exact .inl ⟨w, rfl⟩
  | sof | drop | xlit | esc | lit | eof | badeof | itemEsc7E | itemEsc7D | itemPlain
  | itemNoncanon | frame => exact .inr ⟨_, rfl⟩
  | _ => cases receives

theorem exec_rxStep (w : Byte) (s : State) : exec (.rxStep w) s = rxByte Config.hardware w s := rfl

/-- A receiving row is the delivery of some wire string, or it is refused, whatever the state. -/
theorem exec_of_isReceive {i : Instr} (receives : isReceive i = true) :
    (∃ bs, ∀ s, exec i s = rxBytes Config.hardware bs s) ∨
    ∀ s, exec i s = .refused .payloadLength := by
  rcases rxStep_or_encode_of_isReceive receives with ⟨w, rfl⟩ | ⟨bs, encoded⟩
  · exact .inl ⟨[w], fun s => (rxBytes_singleton _ w s).symm⟩
  · rcases exec_of_encode encoded with delivers | ⟨-, refused⟩
    · exact .inl ⟨bs, delivers⟩
    · exact .inr refused

/-- Settles O29: the row read from a byte is well-formed and stands for that byte. -/
theorem rxStepRunsItsSymbol : Obligations.RxStepRunsItsSymbol := by
  intro w s
  obtain ⟨wellFormed, encoded⟩ := everyWireByteHasItsSymbol s.rxState s.rxEsc w
  rw [wireRowsDeliverTheirBytes _ _ s wellFormed encoded, rxBytes_singleton, exec_rxStep]

/-! ### Single rows -/

/-- Settles O21: both rows are RX.STEP on a byte that is no delimiter. -/
theorem dropResult : Obligations.DropResult := by
  intro w s hs hw
  have step : rxByte Config.hardware w s = .next s := by rw [rxByte_waitStart _ _ _ hs, if_neg hw]
  exact ⟨(exec_drop w s).trans step, step⟩

/-- Settles O27, from O26 at the first checksum byte. -/
theorem emptyPayloadTakesChecksum : Obligations.EmptyPayloadTakesChecksum := by
  intro i b s hs hd emptyLen noneRead noSum noCount
  have notDue : ¬ s.rxRead < s.rxLen := by rw [emptyLen, noneRead]; decide
  obtain ⟨more, -⟩ := checksumByteResult i b s hd (.inr ⟨hs, notDue⟩)
  rw [more (by rw [noCount]; decide), noSum, noCount]
  simp

/-- The verdict as the rule writes it (rule R146). -/
theorem validFlag_eq_decide (count : BitVec 3) (crc sum : Word) (w : Byte) :
    validFlag count crc sum w =
      decide (count = 4#3 ∧ crc ^^^ 0xFFFFFFFF#32 = sum ∧ w = 0x7E#8) := by
  simp only [validFlag, checksumGood, crcFinalize, Bool.decide_and, Bool.and_assoc, beq_eq_decide]

/-- Settles O28: the three rows are RX.STEP on their byte, which is the end of the packet with its verdict. -/
theorem endOfFrameResult : Obligations.EndOfFrameResult := by
  intro w s hs
  have step (w : Byte) : rxByte Config.hardware w s = .next { s with
      events := s.events ++
        [.finished s.rxType
          (decide (s.rxSumCnt = 4#3 ∧ s.rxCrc ^^^ 0xFFFFFFFF#32 = s.rxSum ∧ w = 0x7E#8))],
      rxState := .waitStart } := by
    rw [rxByte_expectEnd _ _ _ hs, validFlag_eq_decide]
    rfl
  refine ⟨?eof, fun hw => ?badeof, step w⟩
  case eof => simp [exec_eof, step]
  case badeof => simp [exec_badeof, step, hw]

/-- Settles O38, by the length tests of the two meanings. -/
theorem wrongPayloadLengthIsRefused : Obligations.WrongPayloadLengthIsRefused :=
  fun type _ _ s => ⟨fun wrong => if_neg wrong, fun long => exec_frame_refused long.not_gt type s⟩

/-- Settles O33: each byte of the garbage is a DROP. -/
theorem garbageWithoutDelimiterIsDropped : Obligations.GarbageWithoutDelimiterIsDropped := by
  intro cfg g ws s hs noDelim
  have dropped : rxBytes cfg g s = .next s := by
    induction g with
    | nil => rfl
    | cons w g ih =>
      obtain ⟨hw, noDelim⟩ := List.ne_and_not_mem_of_not_mem_cons noDelim
      rw [rxBytes_cons, rxByte_waitStart _ _ _ hs, if_neg hw.symm, Result.andThen_next, ih noDelim]
  exact ⟨dropped, by rw [rxBytes_append, dropped, Result.andThen_next]⟩

end Sys2Proof.Machine
end

section
/-! The event rows, RESET, BUF and the host's sequence (rules R51, R148 to R150, R210, R232). -/

namespace Sys2Proof.Machine

theorem exec_evData (s : State) :
    exec .evData s =
      if s.rxBufN = 0 then .next s
      else if s.rxBufN ≤ Config.hardware.chunkCap then .next s.emitData
      else .fault .bufIndexOutOfRange := rfl

/-- Settles O40: the rows emit, EV.DATA by the three ranges of its cursor. -/
theorem eventRowResults : Obligations.EventRowResults := by
  intro s
  refine ⟨rfl, fun some fits => ?data, fun none => ?nothing, fun _ => rfl⟩
  case data =>
    rw [exec_evData, if_neg (by omega), if_pos fits]
    rfl
  case nothing => rw [exec_evData, if_pos none]

/-- Settles O41, with the state the operation leaves. -/
theorem resetResult : Obligations.ResetResult := fun s =>
  ⟨s.resetRegisters, rfl, rfl, rfl, rfl, rfl, rfl, rfl, rfl, rfl, rfl, Memory.read_nil, rfl, rfl,
    rfl, rfl, rfl, rfl, rfl⟩

/-- Settles O42, from the laws of the byte memory. -/
theorem bufferWriteLaw : Obligations.BufferWriteLaw := fun cfg i v s inRange canonical inCap =>
  ⟨_, bufWrite_next cfg i v s inRange, Memory.read_write_same _ _ _ canonical,
    fun _ other => Memory.read_write_other _ _ _ _ other canonical,
    Memory.write_wf _ _ _ canonical, Memory.write_within _ _ _ _ inRange inCap, rfl⟩

/-- Settles O43: the payload byte finds no room, and the chunk has no such bytes. -/
theorem outOfRangeBufferFaults : Obligations.OutOfRangeBufferFaults := by
  intro i b s
  refine ⟨fun hs hd due outside => ?payload, fun outside => ?chunk⟩
  case payload =>
    have hc : s.rxState.isContent = true := by rw [hs]; rfl
    rw [exec_of_delivered hc hd, logicalByte_payload _ _ (s.setRxEsc false) hs due]
    exact takePayload_fault _ _ (s.setRxEsc false) outside.not_gt
  case chunk => rw [exec_evData, if_neg (by omega), if_neg outside.not_ge]

/-- A step takes the head of the host's sequence and runs it (rule R232). -/
theorem step_cons {i : Instr} {rest : List Instr} {s : State} (h : s.pending = i :: rest) :
    step s = exec i { s with pending := rest } := by
  simp [step, fetchNext, h]

theorem step_idle {s : State} (h : s.pending = []) : step s = .next s := by
  simp [step, fetchNext, h]

/-- Settles O44, from the two cases of a step. -/
theorem stepRunsTheNextOperation : Obligations.StepRunsTheNextOperation :=
  fun _ => ⟨fun _ _ => step_cons, step_idle⟩

/-- Settles O45: the placed instruction is the head of the sequence. -/
theorem placedWordRunsNext : Obligations.PlacedWordRunsNext := by
  intro s nbits w i decoded
  have placed : s.withFetchWord nbits w = issueNext i (enterContext i s) := by
    simp [State.withFetchWord, issueTableWord, decoded]
  rw [placed, step_cons (rest := (enterContext i s).pending) rfl]
  rfl

end Sys2Proof.Machine
end

section
/-! What a delivery leaves alone (rules R51, R64, R141): everything outside the RX agent, and every byte of BUF but one. -/

namespace Sys2Proof.Machine

/-! ### Everything outside the RX agent can be exchanged -/

/-- The RX agent of `s` beside the serializer, function ports and host sequence of `o` (rules R20, R64). -/
def State.withOutside (o s : State) : State :=
  { s with
    txCrc := o.txCrc, txOut := o.txOut, crcOut := o.crcOut, codecOut := o.codecOut,
    pending := o.pending }

theorem State.withOutside_self (s : State) : s.withOutside s = s := rfl

theorem sameOutsideRx_withOutside (o s : State) : sameOutsideRx o (o.withOutside s) :=
  ⟨rfl, rfl, rfl, rfl, rfl⟩

/-- LOGICAL neither reads nor writes what is outside the RX agent. -/
theorem logicalByte_withOutside (cfg : Config) (b : Byte) (o s : State) :
    logicalByte cfg b (o.withOutside s) =
      Result.andThen (logicalByte cfg b s) fun t => .next (o.withOutside t) := by
  have takeSum_next (h : s.rxState = .readCrc ∨ (s.rxState = .readData ∧ ¬ s.rxRead < s.rxLen)) :
      logicalByte cfg b (o.withOutside s) =
        Result.andThen (logicalByte cfg b s) fun t => .next (o.withOutside t) := by
    rw [logicalByte_checksum _ _ s h, logicalByte_checksum _ _ (o.withOutside s) h]
    rfl
  cases hs : s.rxState with
  | waitStart | expectEnd => simp [logicalByte, State.withOutside, hs]
  | readType =>
    rw [logicalByte_readType _ _ s hs, logicalByte_readType _ _ (o.withOutside s) hs]
    rfl
  | readLength =>
    rw [logicalByte_readLength _ _ s hs, logicalByte_readLength _ _ (o.withOutside s) hs,
      Result.andThen_next, takeLength, takeLength, apply_ite o.withOutside]
    rfl
  | readData =>
    by_cases due : s.rxRead < s.rxLen
    · rw [logicalByte_payload _ _ s hs due, logicalByte_payload _ _ (o.withOutside s) hs due]
      by_cases fits : s.rxBufN < cfg.chunkCap
      · rw [takePayload_next _ _ s fits, takePayload_next _ _ (o.withOutside s) fits,
          Result.andThen_next, finishPayload_eq, finishPayload_eq]
        rfl
      · rw [takePayload_fault _ _ s fits, takePayload_fault _ _ (o.withOutside s) fits]
        rfl
    · exact takeSum_next (.inr ⟨hs, due⟩)
  | readCrc => exact takeSum_next (.inl hs)

/-- Nor does RX.STEP (rule R64). -/
theorem rxByte_withOutside (cfg : Config) (w : Byte) (o s : State) :
    rxByte cfg w (o.withOutside s) =
      Result.andThen (rxByte cfg w s) fun t => .next (o.withOutside t) := by
  cases hc : s.rxState.isContent with
  | true =>
    rw [rxByte_content _ _ s hc, rxByte_content _ _ (o.withOutside s) hc]
    show deliverLogical cfg (unescapeStage cfg s.rxEsc w) (o.withOutside s) = _
    obtain ⟨p, delivered⟩ := unescapeStage cfg s.rxEsc w
    cases delivered with
    | none => rfl
    | some b => exact logicalByte_withOutside cfg b o (s.setRxEsc p)
  | false =>
    cases hs : s.rxState with
    | waitStart =>
      rw [rxByte_waitStart _ _ s hs, rxByte_waitStart _ _ (o.withOutside s) hs,
        Result.andThen_next, apply_ite o.withOutside]
      rfl
    | expectEnd =>
      rw [rxByte_expectEnd _ _ s hs, rxByte_expectEnd _ _ (o.withOutside s) hs]
      rfl
    | readType | readLength | readData | readCrc => rw [hs] at hc; cases hc

theorem rxBytes_withOutside (cfg : Config) (ws : List Byte) (o s : State) :
    rxBytes cfg ws (o.withOutside s) =
      Result.andThen (rxBytes cfg ws s) fun t => .next (o.withOutside t) := by
  induction ws generalizing s with
  | nil => rfl
  | cons w ws ih =>
    rw [rxBytes_cons, rxBytes_cons, rxByte_withOutside, Result.andThen_assoc, Result.andThen_assoc]
    congr 1
    funext t
    exact ih t

/-- A delivery keeps everything outside the RX agent (rule R64). -/
theorem sameOutsideRx_of_rxBytes {cfg : Config} {ws : List Byte} {s t : State}
    (h : rxBytes cfg ws s = .next t) : sameOutsideRx s t := by
  have own := rxBytes_withOutside cfg ws s s
  rw [State.withOutside_self, h, Result.andThen_next] at own
  injection own with own
  rw [own]
  exact sameOutsideRx_withOutside s t

/-- Settles O36: a receiving row that completes is a delivery. -/
theorem receivingLeavesTheRestAlone : Obligations.ReceivingLeavesTheRestAlone := by
  intro i s t receives h
  rcases exec_of_isReceive receives with ⟨bs, delivers⟩ | refused
  · exact sameOutsideRx_of_rxBytes ((delivers s).symm.trans h)
  · rw [refused] at h
    cases h

/-- TX.SEND writes outside the RX agent only, and what it writes depends on nothing else. -/
theorem sendTrailer_sendCovered_of_sameOutsideRx {s u : State} (same : sameOutsideRx s u)
    (type : Byte) (len : Word) (payload : List Byte) :
    sendTrailer (sendCovered type len payload u) =
      (sendTrailer (sendCovered type len payload s)).withOutside u := by
  obtain ⟨-, txOut, crcOut, codecOut, pending⟩ := same
  simp only [sendTrailer_eq, sendCovered_eq, State.withOutside, ← txOut, ← crcOut, ← codecOut,
    ← pending]

/-- Settles O39: TX.SEND exchanges what is outside the RX agent, which a delivery neither reads nor writes. -/
theorem receiveAndSendCommute : Obligations.ReceiveAndSendCommute := by
  intro i type len payload s receives exact_length
  have sends := exec_txSend_of_length_eq (type := type) exact_length
  rw [sends, Result.andThen_next]
  rcases exec_of_isReceive receives with ⟨bs, delivers⟩ | refused
  · rw [delivers, delivers,
      sendTrailer_sendCovered_of_sameOutsideRx ⟨rfl, rfl, rfl, rfl, rfl⟩ type len payload,
      rxBytes_withOutside]
    cases received : rxBytes Config.hardware bs s with
    | next u =>
      rw [Result.andThen_next, Result.andThen_next, sends,
        sendTrailer_sendCovered_of_sameOutsideRx (sameOutsideRx_of_rxBytes received)]
    | fault e | refused e => rfl
  · rw [refused, refused]
    rfl

/-! ### The one byte of BUF a delivery can write -/

/-- LOGICAL stores a due payload byte at the cursor, and nothing else (rule R141). -/
theorem logicalByte_rxBuf {cfg : Config} {b : Byte} {s t : State}
    (hc : s.rxState.isContent = true) (h : logicalByte cfg b s = .next t) :
    t.rxBuf = s.rxBuf ∨
    (s.rxState = .readData ∧ s.rxRead < s.rxLen ∧ t.rxBuf = s.rxBuf.write s.rxBufN b) := by
  rcases logicalByte_cases hc h with
    ⟨-, rfl⟩ | ⟨-, rfl⟩ | ⟨hs, due, -, rfl⟩ | ⟨-, -, rfl⟩ | ⟨-, rfl⟩
  · exact .inl rfl
  · left
    rw [takeLength]
    split <;> rfl
  · exact .inr ⟨hs, due, by rw [finishPayload_eq]; rfl⟩
  · exact .inl rfl
  · exact .inl rfl

/-- RX.STEP stores at the store index, and nowhere else (rules R51, R141). -/
theorem rxByte_rxBuf {cfg : Config} {w : Byte} {s t : State} (h : rxByte cfg w s = .next t) :
    t.rxBuf = s.rxBuf ∨
    (s.storeIndex cfg w = some s.rxBufN ∧ ∃ b, t.rxBuf = s.rxBuf.write s.rxBufN b) := by
  rcases rxByte_cases h with ⟨-, -, rfl⟩ | ⟨-, -, rfl⟩ | ⟨-, -, rfl⟩ | ⟨b, hc, hb, hl⟩ | ⟨-, rfl⟩
  · exact .inl rfl
  · exact .inl rfl
  · exact .inl rfl
  · rcases logicalByte_rxBuf (s := s.setRxEsc (unescapeStage cfg s.rxEsc w).1) hc hl with
      same | ⟨hs, due, stored⟩
    · exact .inl same
    · exact .inr ⟨if_pos ⟨hs, due, by rw [hb]; rfl⟩, b, stored⟩
  · exact .inl rfl

/-- Settles O35: a one-byte row is RX.STEP on its byte. -/
theorem oneByteReceiveFrame : Obligations.OneByteReceiveFrame := by
  intro i w s t wellFormed row canonical h
  have delivers : rxByte Config.hardware w s = .next t := by
    rcases row with rfl | encoded
    · exact h
    · rw [← rxBytes_singleton, ← wireRowsDeliverTheirBytes i [w] s wellFormed encoded, h]
  refine ⟨sameOutsideRx_of_rxBytes ((rxBytes_singleton _ w s).trans delivers), fun a other => ?_⟩
  rcases rxByte_rxBuf delivers with same | ⟨index, b, stored⟩
  · rw [same]
  · have elsewhere : a ≠ s.rxBufN := fun eq => other (by rw [index, eq])
    rw [stored, Memory.read_write_other _ _ _ _ elsewhere canonical]

end Sys2Proof.Machine
end

section
/-! The invariant of rule R41: kept by each of the parser's operations, so by RX.STEP, by every delivery and by every row. -/

namespace Sys2Proof.Machine

/-! ### The counters -/

theorem count_succ_le_four {n : BitVec 3} (h : n ≤ 3#3) : n + 1#3 ≤ 4#3 := by
  revert n
  decide

theorem count_succ_le_three {n : BitVec 3} (h : n ≤ 3#3) (more : n + 1#3 ≠ 4#3) :
    n + 1#3 ≤ 3#3 := by
  revert n
  decide

/-- Below the length the payload count does not wrap (assumption 14). -/
theorem toNat_succ_of_lt {read len : Word} (due : read < len) :
    (read + 1#32).toNat = read.toNat + 1 := by bv_omega

theorem succ_le_of_lt {read len : Word} (due : read < len) : read + 1#32 ≤ len := by bv_omega

theorem succ_lt_of_ne {read len : Word} (due : read < len) (more : read + 1#32 ≠ len) :
    read + 1#32 < len := by bv_omega

theorem zero_le_word (v : Word) : 0#32 ≤ v := by bv_omega

theorem zero_lt_or_eq_zero (v : Word) : 0#32 < v ∨ v = 0#32 := by bv_omega

/-- The cursor after one more byte, where the buffer is full just when it wraps (rule R41 (d)). -/
theorem mod_succ_of_lt {n cap : Nat} (room : n % cap + 1 < cap) :
    (n + 1) % cap = n % cap + 1 := by
  rw [Nat.add_mod, Nat.mod_eq_of_lt (show 1 < cap by omega), Nat.mod_eq_of_lt room]

theorem mod_succ_of_eq {n cap : Nat} (full : n % cap + 1 = cap) : (n + 1) % cap = 0 := by
  rw [← Nat.mod_add_mod, full, Nat.mod_self]

/-! ### Operation by operation -/

theorem setRxEsc_inv {cfg : Config} {s : State} (inv : s.Inv cfg)
    (hc : s.rxState.isContent = true) (p : Bool) : (s.setRxEsc p).Inv cfg where
  __ := inv
  esc_off h := by
    rcases h with h | h <;> rw [show s.rxState = _ from h] at hc <;> cases hc

/-- READ_TYPE asks nothing of the session (rule R133). -/
theorem setRxState_readType_inv {cfg : Config} {s : State} (inv : s.Inv cfg) :
    (s.setRxState .readType).Inv cfg where
  __ := inv
  esc_off h := by rcases h with h | h <;> cases h
  in_length h := by cases h
  in_data h := by cases h
  in_crc h := by cases h
  in_end h := by cases h

theorem finishPacket_inv {cfg : Config} {s : State} (inv : s.Inv cfg)
    (hs : s.rxState = .expectEnd) (valid : Bool) : (finishPacket valid s).Inv cfg where
  __ := inv
  esc_off _ := inv.esc_off (.inr hs)
  in_length h := by cases h
  in_data h := by cases h
  in_crc h := by cases h
  in_end h := by cases h

theorem takeType_inv {cfg : Config} {s : State} (inv : s.Inv cfg) (b : Byte) :
    (takeType b s).Inv cfg where
  __ := inv
  lenCnt_le := (by decide : 0#3 ≤ 4#3)
  sumCnt_le := (by decide : 0#3 ≤ 4#3)
  read_le := zero_le_word 0#32
  esc_off h := by rcases h with h | h <;> cases h
  in_length _ := ⟨(by decide : 0#3 ≤ 3#3), rfl, rfl⟩
  in_data h := by cases h
  in_crc h := by cases h
  in_end h := by cases h

/-- READ_LENGTH, before and after the fourth byte (rule R138). -/
theorem takeLength_inv {cfg : Config} {s : State} (wf : cfg.wf) (inv : s.Inv cfg)
    (hs : s.rxState = .readLength) (b : Byte) : (takeLength b s).Inv cfg := by
  obtain ⟨count_le, noneRead, noSum⟩ := inv.in_length hs
  have read_le : ∀ len, s.rxRead ≤ len := fun len => noneRead ▸ zero_le_word len
  have merged (st : RxState) : s.rxState = st → st = .readLength := fun h => h ▸ hs
  rw [takeLength]
  split
  case isTrue last =>
    exact {
      lenCnt_le := count_succ_le_four count_le
      sumCnt_le := inv.sumCnt_le
      read_le := read_le _
      cursor_lt := wf
      esc_off := fun h => by rcases h with h | h <;> cases h
      in_length := fun h => by cases h
      in_data := fun _ => by
        have cursor : (0 : Nat) = s.rxRead.toNat % cfg.chunkCap := by simp [noneRead]
        refine ⟨last, noSum, cursor, ?_⟩
        show s.rxRead < (mergeLength b s).rxLen ∨ _
        rw [noneRead]
        exact (zero_lt_or_eq_zero _).imp_right fun empty => ⟨empty, noneRead⟩
      in_crc := fun h => by cases h
      in_end := fun h => by cases h
      buf_wf := inv.buf_wf
      buf_within := inv.buf_within }
  case isFalse more =>
    exact { inv with
      lenCnt_le := count_succ_le_four count_le
      read_le := read_le _
      in_length := fun _ => ⟨count_succ_le_three count_le more, noneRead, noSum⟩
      in_data := fun h => by cases merged _ h
      in_crc := fun h => by cases merged _ h
      in_end := fun h => by cases merged _ h }

/-- READ_DATA with a byte due (rule R141): complete, full, or neither. -/
theorem finishPayload_inv {cfg : Config} {s : State} (inv : s.Inv cfg)
    (hs : s.rxState = .readData) (due : s.rxRead < s.rxLen) (b : Byte) :
    (finishPayload cfg (storedPayload b s)).Inv cfg := by
  obtain ⟨lenCnt, noSum, cursor, -⟩ := inv.in_data hs
  have room := inv.cursor_lt
  have written_wf := Memory.write_wf s.rxBuf s.rxBufN b inv.buf_wf
  have written_within := Memory.write_within s.rxBuf cfg.chunkCap s.rxBufN b room inv.buf_within
  rw [finishPayload_cases]
  split
  case isTrue complete =>
    exact {
      lenCnt_le := inv.lenCnt_le
      sumCnt_le := inv.sumCnt_le
      read_le := succ_le_of_lt due
      cursor_lt := Nat.zero_lt_of_lt room
      esc_off := fun h => by rcases h with h | h <;> cases h
      in_length := fun h => by cases h
      in_data := fun h => by cases h
      in_crc := fun _ => ⟨complete, rfl, by show s.rxSumCnt ≤ 3#3; rw [noSum]; decide⟩
      in_end := fun h => by cases h
      buf_wf := written_wf
      buf_within := written_within }
  case isFalse incomplete =>
    have still (st : RxState) : s.rxState = st → st = .readData := fun h => h ▸ hs
    have due' : s.rxRead + 1#32 < s.rxLen := succ_lt_of_ne due incomplete
    have moved := toNat_succ_of_lt due
    split
    case isTrue full =>
      have wrapped : s.rxRead.toNat % cfg.chunkCap + 1 = cfg.chunkCap := cursor ▸ full
      exact {
        lenCnt_le := inv.lenCnt_le
        sumCnt_le := inv.sumCnt_le
        read_le := succ_le_of_lt due
        cursor_lt := Nat.zero_lt_of_lt room
        esc_off := fun h => by rcases h with h | h <;> cases still _ h
        in_length := fun h => by cases still _ h
        in_data := fun _ => ⟨lenCnt, noSum,
          show 0 = (s.rxRead + 1#32).toNat % _ by rw [moved, mod_succ_of_eq wrapped], .inl due'⟩
        in_crc := fun h => by cases still _ h
        in_end := fun h => by cases still _ h
        buf_wf := written_wf
        buf_within := written_within }
    case isFalse roomLeft =>
      have next_lt : s.rxBufN + 1 < cfg.chunkCap := lt_of_le_of_ne room roomLeft
      exact {
        lenCnt_le := inv.lenCnt_le
        sumCnt_le := inv.sumCnt_le
        read_le := succ_le_of_lt due
        cursor_lt := next_lt
        esc_off := fun h => by rcases h with h | h <;> cases still _ h
        in_length := fun h => by cases still _ h
        in_data := fun _ => ⟨lenCnt, noSum,
          show s.rxBufN + 1 = (s.rxRead + 1#32).toNat % _ by
            rw [moved, mod_succ_of_lt (cursor ▸ next_lt), ← cursor], .inl due'⟩
        in_crc := fun h => by cases still _ h
        in_end := fun h => by cases still _ h
        buf_wf := written_wf
        buf_within := written_within }

/-- TAKE_SUM by either of its callers (rule R144). -/
theorem takeSum_inv {cfg : Config} {s : State} (inv : s.Inv cfg) (escOff : s.rxEsc = false)
    (hs : s.rxState = .readCrc ∨ (s.rxState = .readData ∧ ¬ s.rxRead < s.rxLen)) (b : Byte) :
    (takeSum b s).Inv cfg := by
  obtain ⟨allRead, emptied, count_le⟩ : s.rxRead = s.rxLen ∧ s.rxBufN = 0 ∧ s.rxSumCnt ≤ 3#3 := by
    rcases hs with hs | ⟨hs, notDue⟩
    · exact inv.in_crc hs
    · obtain ⟨-, noSum, cursor, due | ⟨noLen, noneRead⟩⟩ := inv.in_data hs
      · exact absurd due notDue
      · exact ⟨noneRead.trans noLen.symm, by simp [cursor, noneRead], by rw [noSum]; decide⟩
  by_cases last : s.rxSumCnt + 1#3 = 4#3
  · have target : (takeSum b s).rxState = .expectEnd := if_pos last
    exact { inv with
      sumCnt_le := count_succ_le_four count_le
      esc_off := fun _ => escOff
      in_length := fun h => by cases target.symm.trans h
      in_data := fun h => by cases target.symm.trans h
      in_crc := fun h => by cases target.symm.trans h
      in_end := fun _ => last }
  · have target : (takeSum b s).rxState = .readCrc := if_neg last
    exact { inv with
      sumCnt_le := count_succ_le_four count_le
      esc_off := fun _ => escOff
      in_length := fun h => by cases target.symm.trans h
      in_data := fun h => by cases target.symm.trans h
      in_crc := fun _ => ⟨allRead, emptied, count_succ_le_three count_le last⟩
      in_end := fun h => by cases target.symm.trans h }

/-! ### RX.STEP and deliveries -/

theorem logicalByte_inv {cfg : Config} {b : Byte} {s t : State} (wf : cfg.wf) (inv : s.Inv cfg)
    (hc : s.rxState.isContent = true) (escOff : s.rxEsc = false)
    (h : logicalByte cfg b s = .next t) : t.Inv cfg := by
  rcases logicalByte_cases hc h with
    ⟨-, rfl⟩ | ⟨hs, rfl⟩ | ⟨hs, due, -, rfl⟩ | ⟨hs, notDue, rfl⟩ | ⟨hs, rfl⟩
  · exact takeType_inv inv b
  · exact takeLength_inv wf inv hs b
  · exact finishPayload_inv inv hs due b
  · exact takeSum_inv inv escOff (.inr ⟨hs, notDue⟩) b
  · exact takeSum_inv inv escOff (.inl hs) b

theorem rxByte_inv {cfg : Config} {w : Byte} {s t : State} (wf : cfg.wf) (inv : s.Inv cfg)
    (h : rxByte cfg w s = .next t) : t.Inv cfg := by
  rcases rxByte_cases h with ⟨-, -, rfl⟩ | ⟨-, -, rfl⟩ | ⟨hc, -, rfl⟩ | ⟨b, hc, hb, hl⟩ | ⟨hs, rfl⟩
  · exact setRxState_readType_inv inv
  · exact inv
  · exact setRxEsc_inv inv hc _
  · rw [unescapeStage_clears hb] at hl
    exact logicalByte_inv wf (setRxEsc_inv inv hc false) hc rfl hl
  · exact finishPacket_inv inv hs _

/-- With room in the buffer LOGICAL completes (rule R130). -/
theorem logicalByte_completes {cfg : Config} {s : State} (room : s.rxBufN < cfg.chunkCap)
    (b : Byte) : ∃ t, logicalByte cfg b s = .next t := by
  cases hs : s.rxState with
  | waitStart | expectEnd => exact ⟨s, by simp [logicalByte, hs]⟩
  | readType => exact ⟨_, logicalByte_readType _ _ _ hs⟩
  | readLength => exact ⟨_, logicalByte_readLength _ _ _ hs⟩
  | readData =>
    by_cases due : s.rxRead < s.rxLen
    · exact ⟨_, (logicalByte_payload _ _ _ hs due).trans (takePayload_next _ _ _ room)⟩
    · exact ⟨_, logicalByte_checksum _ _ _ (.inr ⟨hs, due⟩)⟩
  | readCrc => exact ⟨_, logicalByte_checksum _ _ _ (.inl hs)⟩

theorem rxByte_completes {cfg : Config} {s : State} (room : s.rxBufN < cfg.chunkCap) (w : Byte) :
    ∃ t, rxByte cfg w s = .next t := by
  cases hc : s.rxState.isContent with
  | true =>
    rw [rxByte_content _ _ _ hc]
    obtain ⟨p, delivered⟩ := unescapeStage cfg s.rxEsc w
    cases delivered with
    | none => exact ⟨_, rfl⟩
    | some b => exact logicalByte_completes (s := s.setRxEsc p) room b
  | false =>
    cases hs : s.rxState with
    | waitStart => exact ⟨_, rxByte_waitStart _ _ _ hs⟩
    | expectEnd => exact ⟨_, rxByte_expectEnd _ _ _ hs⟩
    | readType | readLength | readData | readCrc => rw [hs] at hc; cases hc

/-- Settles O49: the cursor is within the buffer, so the byte is taken, and every case keeps the invariant. -/
theorem rxByteTotalForEveryBuild : Obligations.RxByteTotalForEveryBuild := by
  intro cfg w s wf inv
  obtain ⟨t, h⟩ := rxByte_completes inv.cursor_lt w
  exact ⟨t, h, rxByte_inv wf inv h⟩

theorem rxBytes_completes {cfg : Config} {s : State} (wf : cfg.wf) (inv : s.Inv cfg)
    (ws : List Byte) : ∃ t, rxBytes cfg ws s = .next t ∧ t.Inv cfg := by
  induction ws generalizing s with
  | nil => exact ⟨s, rfl, inv⟩
  | cons w ws ih =>
    obtain ⟨u, first, inv'⟩ := rxByteTotalForEveryBuild cfg w s wf inv
    obtain ⟨t, rest, inv''⟩ := ih inv'
    exact ⟨t, by rw [rxBytes_cons, first, Result.andThen_next, rest], inv''⟩

/-! ### Every row -/

theorem hardware_wf : Config.hardware.wf := by decide

/-- The invariant speaks of the registers and BUF of the RX agent only. -/
theorem inv_of_eq {cfg : Config} {s t : State} (inv : s.Inv cfg)
    (same : { t with
      txCrc := s.txCrc, pending := s.pending, events := s.events, txOut := s.txOut,
      crcOut := s.crcOut, codecOut := s.codecOut } = s) : t.Inv cfg := by
  rw [← same] at inv
  exact { inv with }

/-- Settles O46, clause by clause on the reset state. -/
theorem invHoldsAtReset : Obligations.InvHoldsAtReset := by
  constructor <;> decide

/-- A row that completes keeps the invariant, well-formed or not. -/
theorem exec_inv {i : Instr} {s t : State} (inv : s.Inv Config.hardware)
    (h : exec i s = .next t) : t.Inv Config.hardware := by
  cases receives : isReceive i with
  | true =>
    rcases exec_of_isReceive receives with ⟨bs, delivers⟩ | refused
    · obtain ⟨u, completes, inv'⟩ := rxBytes_completes hardware_wf inv bs
      rw [delivers, completes] at h
      cases h
      exact inv'
    · rw [refused] at h
      cases h
  | false =>
    cases i with
    | crcTable | crcSeed | crcUpdate | crcFinal | stuffEnc | stuffDec | evStart | evFinished =>
      cases h
      exact inv_of_eq inv rfl
    | reset =>
      cases h
      exact inv_of_eq invHoldsAtReset rfl
    | txSend type len payload =>
      by_cases exact_length : payload.length = len.toNat
      · rw [exec_txSend_of_length_eq exact_length, sendTrailer_eq, sendCovered_eq] at h
        cases h
        exact inv_of_eq inv rfl
      · rw [(wrongPayloadLengthIsRefused type len payload s).1 exact_length] at h
        cases h
    | evData =>
      rw [exec_evData] at h
      split_ifs at h
      · cases h
        exact inv
      · cases h
        exact inv_of_eq inv rfl
    | _ => cases receives

/-- Settles O47: the host's sequence is not part of the invariant, and the row it holds next keeps it. -/
theorem stepKeepsInv : Obligations.StepKeepsInv := by
  intro s t inv h
  match pending : s.pending with
  | [] =>
    rw [step_idle pending] at h
    cases h
    exact inv
  | i :: rest =>
    rw [step_cons pending] at h
    exact exec_inv (s := { s with pending := rest }) (inv_of_eq inv rfl) h

/-- Settles O48: a receiving row is a delivery, the others complete by their own meanings. -/
theorem noOperationFails : Obligations.NoOperationFails := by
  intro i s wellFormed inv
  suffices completes : ∃ t, exec i s = .next t by
    obtain ⟨t, h⟩ := completes
    exact ⟨t, h, exec_inv inv h⟩
  cases receives : isReceive i with
  | true =>
    rcases rxStep_or_encode_of_isReceive receives with ⟨w, rfl⟩ | ⟨bs, encoded⟩
    · exact rxByte_completes inv.cursor_lt w
    · obtain ⟨t, h, -⟩ := rxBytes_completes hardware_wf inv bs
      exact ⟨t, (wireRowsDeliverTheirBytes i bs s wellFormed encoded).trans h⟩
  | false =>
    cases i with
    | crcTable | crcSeed | crcUpdate | crcFinal | stuffEnc | stuffDec | evStart | evFinished
    | reset => exact ⟨_, rfl⟩
    | txSend type len payload =>
      exact ⟨_, exec_txSend_of_length_eq (by simpa [Instr.wf] using wellFormed) s⟩
    | evData =>
      rw [exec_evData, if_pos inv.cursor_lt.le]
      split <;> exact ⟨_, rfl⟩
    | _ => cases receives

end Sys2Proof.Machine
end

section
/-! The flag and the variant without un-stuffing (rules R132, R152). -/

namespace Sys2Proof.Machine

/-- LOGICAL leaves the flag alone. -/
theorem logicalByte_rxEsc {cfg : Config} {b : Byte} {s t : State}
    (hc : s.rxState.isContent = true) (h : logicalByte cfg b s = .next t) :
    t.rxEsc = s.rxEsc := by
  rcases logicalByte_cases hc h with ⟨-, rfl⟩ | ⟨-, rfl⟩ | ⟨-, -, -, rfl⟩ | ⟨-, -, rfl⟩ | ⟨-, rfl⟩
  · rfl
  · rw [takeLength]
    split <;> rfl
  · rw [finishPayload_eq]
    rfl
  · rfl
  · rfl

/-- A byte that is no marker, with no escape pending, is itself in either variant. -/
theorem unescapeStage_plain (cfg : Config) {w : Byte} (notMark : w ≠ escapeMark) :
    unescapeStage cfg false w = (false, some w) := by
  cases hu : cfg.rxUnescape
  · exact unescapeStage_off cfg false w hu
  · rw [unescapeStage_on cfg false w hu, stuffDecFn_plain w notMark]

/-- A stage that ends with no escape pending leaves RX.STEP with none. -/
theorem rxByte_rxEsc {cfg : Config} {w : Byte} {s t : State} (escOff : s.rxEsc = false)
    (stage : (unescapeStage cfg false w).1 = false) (h : rxByte cfg w s = .next t) :
    t.rxEsc = false := by
  rcases rxByte_cases h with ⟨-, -, rfl⟩ | ⟨-, -, rfl⟩ | ⟨-, -, rfl⟩ | ⟨b, hc, -, hl⟩ | ⟨-, rfl⟩
  · exact escOff
  · exact escOff
  · rw [escOff]; exact stage
  · rw [escOff, stage] at hl
    exact logicalByte_rxEsc (s := s.setRxEsc false) hc hl
  · exact escOff

/-- LOGICAL depends on the build by its capacity only (rules R8, R9). -/
theorem logicalByte_eq_of_chunkCap_eq {c d : Config} (same : c.chunkCap = d.chunkCap) (b : Byte)
    (s : State) : logicalByte c b s = logicalByte d b s := by
  simp only [logicalByte, takePayload, bufWrite, finishPayload, same]

/-- Without a marker and with no escape pending, RX.STEP depends on the capacity only. -/
theorem rxByte_eq_of_chunkCap_eq {c d : Config} (same : c.chunkCap = d.chunkCap) {w : Byte}
    (notMark : w ≠ escapeMark) {s : State} (escOff : s.rxEsc = false) :
    rxByte c w s = rxByte d w s := by
  cases hc : s.rxState.isContent with
  | true =>
    rw [rxByte_content _ _ _ hc, rxByte_content _ _ _ hc, escOff, unescapeStage_plain c notMark,
      unescapeStage_plain d notMark]
    exact logicalByte_eq_of_chunkCap_eq same w _
  | false =>
    cases hs : s.rxState with
    | waitStart => rw [rxByte_waitStart _ _ _ hs, rxByte_waitStart _ _ _ hs]
    | expectEnd => rw [rxByte_expectEnd _ _ _ hs, rxByte_expectEnd _ _ _ hs]
    | readType | readLength | readData | readCrc => rw [hs] at hc; cases hc

/-- A string without a marker is parsed alike by both variants. -/
theorem rxBytes_eq_of_chunkCap_eq {c d : Config} (same : c.chunkCap = d.chunkCap)
    {ws : List Byte} (noMark : escapeMark ∉ ws) {s : State} (escOff : s.rxEsc = false) :
    rxBytes c ws s = rxBytes d ws s := by
  induction ws generalizing s with
  | nil => rfl
  | cons w ws ih =>
    obtain ⟨notMark, noMark⟩ := List.ne_and_not_mem_of_not_mem_cons noMark
    rw [rxBytes_cons, rxBytes_cons, rxByte_eq_of_chunkCap_eq same notMark.symm escOff]
    cases first : rxByte d w s with
    | next t =>
      exact ih noMark
        (rxByte_rxEsc escOff (by rw [unescapeStage_plain d notMark.symm]) first)
    | fault e | refused e => rfl

/-- Settles O34: the stage of the variant is the identity, and a frame without reserved bytes holds no marker. -/
theorem rawVariantBehaviour : Obligations.RawVariantBehaviour := by
  intro cfg s
  have stage (p : Bool) (w : Byte) : unescapeStage cfg.rawVariant p w = (false, some w) :=
    unescapeStage_off _ _ _ rfl
  refine ⟨fun w hc => ?content, fun w t escOff h => ?flag,
    fun type payload escOff _ noDelim noMark => ?frame⟩
  case content =>
    rw [rxByte_content _ _ _ hc, stage]
    rfl
  case flag => exact rxByte_rxEsc escOff (by rw [stage]) h
  case frame =>
    have wireNoMark : escapeMark ∉ frameBytes type payload := by
      simpa [frameBytes, stuffEncAll_eq_self noDelim noMark,
        show escapeMark ≠ frameDelim by decide] using noMark
    exact rxBytes_eq_of_chunkCap_eq (by rfl) wireNoMark escOff

end Sys2Proof.Machine
end

section
/-! The events of one RX.STEP (rules R147, R151, R156). -/

namespace Sys2Proof.Machine

/-! ### At most one event -/

theorem logicalByte_events {cfg : Config} {b : Byte} {s t : State}
    (hc : s.rxState.isContent = true) (h : logicalByte cfg b s = .next t) :
    t.events = s.events ∨ ∃ e, t.events = s.events ++ [e] := by
  rcases logicalByte_cases hc h with ⟨-, rfl⟩ | ⟨-, rfl⟩ | ⟨-, -, -, rfl⟩ | ⟨-, -, rfl⟩ | ⟨-, rfl⟩
  · exact .inl rfl
  · rw [takeLength]
    split
    · exact .inr ⟨_, rfl⟩
    · exact .inl rfl
  · rw [finishPayload_cases]
    split_ifs
    · exact .inr ⟨_, rfl⟩
    · exact .inr ⟨_, rfl⟩
    · exact .inl rfl
  · exact .inl rfl
  · exact .inl rfl

/-- Settles O32, case by case of RX.STEP. -/
theorem atMostOneEventPerStep : Obligations.AtMostOneEventPerStep := by
  intro cfg w s t h
  rcases rxByte_cases h with ⟨-, -, rfl⟩ | ⟨-, -, rfl⟩ | ⟨-, -, rfl⟩ | ⟨b, hc, -, hl⟩ | ⟨-, rfl⟩
  · exact .inl rfl
  · exact .inl rfl
  · exact .inl rfl
  · exact logicalByte_events (s := s.setRxEsc (unescapeStage cfg s.rxEsc w).1) hc hl
  · exact .inr ⟨_, rfl⟩

/-! ### The event grammar (rule R156) -/

theorem eventsFrom_append (cap : Nat) (p : EventPos) (es fs : List Event) :
    eventsFrom cap p (es ++ fs) = (eventsFrom cap p es).bind fun q => eventsFrom cap q fs := by
  induction es generalizing p with
  | nil => rfl
  | cons e es ih =>
    simp only [List.cons_append, eventsFrom]
    cases eventStep cap p e with
    | none => rfl
    | some q => exact ih q

/-- `t` comes after `s` by events that take the grammar from the one's position to the other's. -/
def GrammarStep (cap : Nat) (s t : State) : Prop :=
  ∃ es, t.events = s.events ++ es ∧ eventsFrom cap s.eventPos es = some t.eventPos

theorem GrammarStep.silent {cap : Nat} {s t : State} (events : t.events = s.events)
    (pos : t.eventPos = s.eventPos) : GrammarStep cap s t :=
  ⟨[], by rw [events, List.append_nil], by rw [pos]; rfl⟩

theorem GrammarStep.single {cap : Nat} {s t : State} {e : Event}
    (events : t.events = s.events ++ [e]) (pos : eventStep cap s.eventPos e = some t.eventPos) :
    GrammarStep cap s t :=
  ⟨[e], events, by simp only [eventsFrom, pos]⟩

theorem GrammarStep.trans {cap : Nat} {s t u : State} (first : GrammarStep cap s t)
    (second : GrammarStep cap t u) : GrammarStep cap s u := by
  obtain ⟨es, events, pos⟩ := first
  obtain ⟨fs, events', pos'⟩ := second
  exact ⟨es ++ fs, by rw [events', events, List.append_assoc],
    by rw [eventsFrom_append, pos]; exact pos'⟩

/-- The last length byte opens the packet with its length still to come (rule R138). -/
theorem takeLength_grammar {cfg : Config} {s : State} (inv : s.Inv cfg)
    (hs : s.rxState = .readLength) (b : Byte) :
    GrammarStep cfg.chunkCap s (takeLength b s) := by
  obtain ⟨-, noneRead, -⟩ := inv.in_length hs
  rw [takeLength]
  split
  · refine .single (e := .start s.rxType (mergeLength b s).rxLen) rfl ?_
    simp [State.eventPos, hs, eventStep, beginData, mergeLength, noneRead]
  · exact .silent rfl (by simp [State.eventPos, hs, mergeLength])

theorem eventPos_readData {s : State} (hs : s.rxState = .readData) :
    s.eventPos = .inside s.rxType (s.rxLen.toNat - s.rxRead.toNat + s.rxBufN) := by
  simp [State.eventPos, hs]

theorem eventStep_data {cap remaining n : Nat} {type : Byte} {bytes : List Byte}
    (length : bytes.length = n) (some_bytes : 1 ≤ n) (full_or_last : n = min cap remaining) :
    eventStep cap (.inside type remaining) (.data type n bytes) =
      some (.inside type (remaining - n)) :=
  if_pos ⟨rfl, length.symm, some_bytes, full_or_last⟩

/-- A chunk is what the grammar asks for: the capacity, or all that remain (rule R141). -/
theorem finishPayload_grammar {cfg : Config} {s : State} (inv : s.Inv cfg)
    (hs : s.rxState = .readData) (due : s.rxRead < s.rxLen) (b : Byte) :
    GrammarStep cfg.chunkCap s (finishPayload cfg (storedPayload b s)) := by
  have room := inv.cursor_lt
  have due_nat : s.rxRead.toNat < s.rxLen.toNat := due
  have moved : (s.rxRead + 1#32).toNat = s.rxRead.toNat + 1 := toNat_succ_of_lt due
  have chunk_length : (storedPayload b s).chunk.length = s.rxBufN + 1 := State.chunk_length _
  rw [finishPayload_cases]
  split_ifs with complete full
  · have last : s.rxRead.toNat + 1 = s.rxLen.toNat := by rw [← moved]; exact congrArg _ complete
    refine .single (e := .data s.rxType (s.rxBufN + 1) (storedPayload b s).chunk) rfl ?_
    rw [eventPos_readData hs, eventStep_data chunk_length (by omega) (by omega),
      show s.rxLen.toNat - s.rxRead.toNat + s.rxBufN - (s.rxBufN + 1) = 0 by omega]
    rfl
  · have last : s.rxBufN + 1 = cfg.chunkCap := full
    refine .single (e := .data s.rxType (s.rxBufN + 1) (storedPayload b s).chunk) rfl ?_
    rw [eventPos_readData hs, eventStep_data chunk_length (by omega) (by omega),
      eventPos_readData (s := flushChunk (storedPayload b s)) hs]
    show some (EventPos.inside _ _) = some (.inside _ (s.rxLen.toNat - (s.rxRead + 1#32).toNat + 0))
    rw [moved, show s.rxLen.toNat - s.rxRead.toNat + s.rxBufN - (s.rxBufN + 1) =
      s.rxLen.toNat - (s.rxRead.toNat + 1) + 0 by omega]
    rfl
  · refine .silent rfl ?_
    rw [eventPos_readData hs, eventPos_readData (s := storedPayload b s) hs]
    show EventPos.inside _ (s.rxLen.toNat - (s.rxRead + 1#32).toNat + (s.rxBufN + 1)) = _
    rw [moved, show s.rxLen.toNat - (s.rxRead.toNat + 1) + (s.rxBufN + 1) =
      s.rxLen.toNat - s.rxRead.toNat + s.rxBufN by omega]
    rfl

theorem takeSum_eventPos {cfg : Config} {s : State} (inv : s.Inv cfg)
    (hs : s.rxState = .readCrc ∨ (s.rxState = .readData ∧ ¬ s.rxRead < s.rxLen)) (b : Byte) :
    (takeSum b s).eventPos = s.eventPos := by
  have target : (takeSum b s).eventPos = .inside s.rxType 0 := by
    by_cases last : s.rxSumCnt + 1#3 = 4#3 <;> simp [State.eventPos, takeSum, last]
  rw [target]
  rcases hs with hs | ⟨hs, notDue⟩
  · simp [State.eventPos, hs]
  · obtain ⟨-, -, cursor, due | ⟨noLen, noneRead⟩⟩ := inv.in_data hs
    · exact absurd due notDue
    · simp [State.eventPos, hs, noLen, noneRead, cursor]

theorem logicalByte_grammar {cfg : Config} {b : Byte} {s t : State} (inv : s.Inv cfg)
    (hc : s.rxState.isContent = true) (h : logicalByte cfg b s = .next t) :
    GrammarStep cfg.chunkCap s t := by
  rcases logicalByte_cases hc h with
    ⟨hs, rfl⟩ | ⟨hs, rfl⟩ | ⟨hs, due, -, rfl⟩ | ⟨hs, notDue, rfl⟩ | ⟨hs, rfl⟩
  · exact .silent rfl (by simp [State.eventPos, hs, takeType])
  · exact takeLength_grammar inv hs b
  · exact finishPayload_grammar inv hs due b
  · exact .silent rfl (takeSum_eventPos inv (.inr ⟨hs, notDue⟩) b)
  · exact .silent rfl (takeSum_eventPos inv (.inl hs) b)

theorem rxByte_grammar {cfg : Config} {w : Byte} {s t : State} (inv : s.Inv cfg)
    (h : rxByte cfg w s = .next t) : GrammarStep cfg.chunkCap s t := by
  rcases rxByte_cases h with ⟨hs, -, rfl⟩ | ⟨-, -, rfl⟩ | ⟨-, -, rfl⟩ | ⟨b, hc, -, hl⟩ | ⟨hs, rfl⟩
  · exact .silent rfl (by simp [State.eventPos, hs])
  · exact .silent rfl rfl
  · exact .silent rfl rfl
  · exact logicalByte_grammar (s := s.setRxEsc (unescapeStage cfg s.rxEsc w).1)
      (setRxEsc_inv inv hc _) hc hl
  · exact .single rfl (by simp [State.eventPos, hs, eventStep, finishPacket])

/-- Settles O55: each byte keeps the invariant and takes the grammar on. -/
theorem eventsFollowTheGrammar : Obligations.EventsFollowTheGrammar := by
  intro cfg ws s wf inv
  suffices ∃ t, rxBytes cfg ws s = .next t ∧ GrammarStep cfg.chunkCap s t by
    obtain ⟨t, h, es, events, pos⟩ := this
    exact ⟨t, es, h, events, pos⟩
  induction ws generalizing s with
  | nil => exact ⟨s, rfl, .silent rfl rfl⟩
  | cons w ws ih =>
    obtain ⟨u, first, inv'⟩ := rxByteTotalForEveryBuild cfg w s wf inv
    obtain ⟨t, rest, grammar⟩ := ih u inv'
    exact ⟨t, by rw [rxBytes_cons, first, Result.andThen_next, rest],
      (rxByte_grammar inv first).trans grammar⟩

end Sys2Proof.Machine
end

section
/-! The transition table (rule R151) and the count of the bytes a packet still takes (rules R154, R187, R222). -/

namespace Sys2Proof.Machine

/-! ### The transition table -/

/-- On this hardware the stage delivers just what the row delivers (rules R122, R132). -/
theorem unescapeStage_eq_delivered (s : State) (w : Byte) :
    (unescapeStage Config.hardware s.rxEsc w).2 = s.delivered (.rxStep w) := by
  rw [unescapeStage_on _ _ _ rfl]
  rcases stuffDecFn_cases s.rxEsc w with ⟨hp, e⟩ | ⟨hp, hw, e⟩ | ⟨hp, hw, e⟩
  · rw [e]; simp [State.delivered, hp]
  · rw [e]; simp [State.delivered, hp, hw]
  · rw [e]; simp [State.delivered, hp, hw]

theorem count_succ_pos {n : BitVec 3} (h : n ≤ 3#3) : 1#3 ≤ n + 1#3 := by
  revert n
  decide

/-- Settles O31: the cases of RX.STEP and of LOGICAL, with what the invariant says of the counters. -/
theorem transitionTable : Obligations.TransitionTable := by
  intro w s t inv h
  rcases rxByte_cases h with
    ⟨hs, hw, rfl⟩ | ⟨hs, hw, rfl⟩ | ⟨hc, hn, rfl⟩ | ⟨b, hc, hb, hl⟩ | ⟨hs, rfl⟩
  · exact .inl ⟨hs, hw, rfl, rfl⟩
  · exact .inr (.inl ⟨hs, hw, hs, rfl⟩)
  · refine .inr (.inr (.inl ?_))
    rcases stuffDecFn_cases s.rxEsc w with ⟨-, e⟩ | ⟨hp, hw, -⟩ | ⟨-, -, e⟩
    · rw [unescapeStage_on _ _ _ rfl, e] at hn; cases hn
    · exact ⟨hc, hp, hw, rfl, rfl⟩
    · rw [unescapeStage_on _ _ _ rfl, e] at hn; cases hn
  · refine .inr (.inr (.inr (.inl ⟨b, unescapeStage_eq_delivered s w ▸ hb, ?_⟩)))
    rcases logicalByte_cases (s := s.setRxEsc (unescapeStage _ s.rxEsc w).1) hc hl with
      ⟨hs, rfl⟩ | ⟨hs, rfl⟩ | ⟨hs, due, -, rfl⟩ | ⟨hs, notDue, rfl⟩ | ⟨hs, rfl⟩
    · exact .inl ⟨hs, rfl, rfl⟩
    · obtain ⟨count_le, -, -⟩ := inv.in_length hs
      rw [takeLength]
      split
      case isTrue last => exact .inr (.inr (.inl ⟨hs, last, rfl, rfl⟩))
      case isFalse more =>
        exact .inr (.inl ⟨hs, count_succ_pos count_le, count_succ_le_three count_le more, hs, rfl⟩)
    · rw [finishPayload_cases]
      split_ifs with complete full
      · exact .inr (.inr (.inr (.inr (.inr (.inl ⟨hs, due, complete, rfl, _, rfl⟩)))))
      · refine .inr (.inr (.inr (.inr (.inl ⟨hs, due, succ_lt_of_ne due complete, full, hs,
          (storedPayload b s).chunk, ?_⟩))))
        exact congrArg (fun n => s.events ++ [Event.data s.rxType n _]) full
      · exact .inr (.inr (.inr (.inl ⟨hs, due, succ_lt_of_ne due complete, full, hs, rfl⟩)))
    · obtain ⟨-, noSum, -, due | ⟨noLen, -⟩⟩ := inv.in_data hs
      · exact absurd due notDue
      · refine .inr (.inr (.inr (.inr (.inr (.inr (.inl ⟨hs, noLen, if_neg ?_, rfl⟩))))))
        show ¬ s.rxSumCnt + 1#3 = 4#3
        rw [noSum]
        decide
    · obtain ⟨-, -, count_le⟩ := inv.in_crc hs
      refine .inr (.inr (.inr (.inr (.inr (.inr (.inr ?_))))))
      by_cases last : s.rxSumCnt + 1#3 = 4#3
      · exact .inr ⟨hs, last, if_pos last, rfl⟩
      · exact .inl ⟨hs, count_succ_pos count_le, count_succ_le_three count_le last, if_neg last,
          rfl⟩
  · exact .inr (.inr (.inr (.inr ⟨hs, rfl, _, rfl⟩)))

/-! ### A packet is counted out -/

/-- The bytes to the end of the packet from READ_DATA on, where no marker is on the wire: the payload bytes missing, the checksum bytes missing, and the delimiter. -/
def State.bytesDue (s : State) : Nat :=
  match s.rxState with
  | .readData => (s.rxLen - s.rxRead).toNat + 5
  | .readCrc => 5 - s.rxSumCnt.toNat
  | .expectEnd => 1
  | .waitStart | .readType | .readLength => 0

theorem bytesDue_readData {s : State} (hs : s.rxState = .readData) :
    s.bytesDue = (s.rxLen - s.rxRead).toNat + 5 := by simp [State.bytesDue, hs]

theorem bytesDue_readCrc {s : State} (hs : s.rxState = .readCrc) :
    s.bytesDue = 5 - s.rxSumCnt.toNat := by simp [State.bytesDue, hs]

theorem bytesDue_expectEnd {s : State} (hs : s.rxState = .expectEnd) : s.bytesDue = 1 := by
  simp [State.bytesDue, hs]

theorem rxState_ne_waitStart_of_bytesDue {s : State} (due : s.bytesDue ≠ 0) :
    s.rxState ≠ .waitStart := fun hs => due (by simp [State.bytesDue, hs])

theorem count_toNat_succ {n : BitVec 3} (h : n ≤ 3#3) :
    n.toNat ≤ 3 ∧ (n + 1#3).toNat = n.toNat + 1 := by
  revert n
  decide

/-- A payload byte is one byte fewer, also where it is the last. -/
theorem finishPayload_bytesDue {cfg : Config} {s : State} (inv : s.Inv cfg)
    (hs : s.rxState = .readData) (due : s.rxRead < s.rxLen) (b : Byte) :
    (finishPayload cfg (storedPayload b s)).bytesDue + 1 = s.bytesDue := by
  obtain ⟨-, noSum, -, -⟩ := inv.in_data hs
  have counted : (s.rxLen - (s.rxRead + 1#32)).toNat + 1 = (s.rxLen - s.rxRead).toNat := by bv_omega
  rw [bytesDue_readData hs, ← counted, finishPayload_cases]
  split_ifs with complete full
  · have complete' : s.rxRead + 1#32 = s.rxLen := complete
    rw [bytesDue_readCrc rfl, complete', BitVec.sub_self]
    show 5 - s.rxSumCnt.toNat + 1 = _
    rw [noSum]
    rfl
  · rw [bytesDue_readData (s := flushChunk (storedPayload b s)) hs, Nat.add_right_comm]
    rfl
  · rw [bytesDue_readData (s := storedPayload b s) hs, Nat.add_right_comm]
    rfl

/-- A checksum byte is one byte fewer, also where it is the last. -/
theorem takeSum_bytesDue {s : State} (count_le : s.rxSumCnt ≤ 3#3) (b : Byte) :
    (takeSum b s).bytesDue + 1 = 5 - s.rxSumCnt.toNat := by
  obtain ⟨count_le_nat, counted⟩ := count_toNat_succ count_le
  by_cases last : s.rxSumCnt + 1#3 = 4#3
  · have three : s.rxSumCnt.toNat + 1 = 4 := by rw [← counted, last]; rfl
    rw [bytesDue_expectEnd (if_pos last)]
    omega
  · rw [bytesDue_readCrc (if_neg last)]
    show 5 - (s.rxSumCnt + 1#3).toNat + 1 = _
    omega

/-- While bytes are due, a logical byte takes one of them. -/
theorem logicalByte_bytesDue {cfg : Config} {b : Byte} {s t : State} (inv : s.Inv cfg)
    (hc : s.rxState.isContent = true) (due : s.bytesDue ≠ 0)
    (h : logicalByte cfg b s = .next t) : t.bytesDue + 1 = s.bytesDue := by
  rcases logicalByte_cases hc h with
    ⟨hs, -⟩ | ⟨hs, -⟩ | ⟨hs, dueByte, -, rfl⟩ | ⟨hs, notDue, rfl⟩ | ⟨hs, rfl⟩
  · exact absurd (by simp [State.bytesDue, hs]) due
  · exact absurd (by simp [State.bytesDue, hs]) due
  · exact finishPayload_bytesDue inv hs dueByte b
  · obtain ⟨-, noSum, -, dueByte | ⟨noLen, noneRead⟩⟩ := inv.in_data hs
    · exact absurd dueByte notDue
    · rw [takeSum_bytesDue (by rw [noSum]; decide), bytesDue_readData hs, noSum, noLen, noneRead]
      rfl
  · obtain ⟨-, -, count_le⟩ := inv.in_crc hs
    rw [takeSum_bytesDue count_le, bytesDue_readCrc hs]

/-- In the content states a logical byte is never the last of those due. -/
theorem two_le_bytesDue {cfg : Config} {s : State} (inv : s.Inv cfg)
    (hc : s.rxState.isContent = true) (due : s.bytesDue ≠ 0) : 2 ≤ s.bytesDue := by
  cases hs : s.rxState with
  | waitStart | expectEnd => rw [hs] at hc; cases hc
  | readType | readLength => exact absurd (by simp [State.bytesDue, hs]) due
  | readData => rw [bytesDue_readData hs]; omega
  | readCrc =>
    obtain ⟨-, -, count_le⟩ := inv.in_crc hs
    have := (count_toNat_succ count_le).1
    rw [bytesDue_readCrc hs]
    omega

/-- Without markers RX.STEP takes one of the bytes due, and the last of them ends the packet. -/
theorem rxByte_bytesDue {cfg : Config} {w : Byte} {s t : State} (inv : s.Inv cfg)
    (escOff : s.rxEsc = false) (notMark : w ≠ escapeMark) (due : s.bytesDue ≠ 0)
    (h : rxByte cfg w s = .next t) :
    t.rxEsc = false ∧ t.bytesDue + 1 = s.bytesDue ∧ (t.bytesDue = 0 → t.rxState = .waitStart) := by
  have plain := unescapeStage_plain cfg notMark
  refine ⟨rxByte_rxEsc escOff (by rw [plain]) h, ?_⟩
  rcases rxByte_cases h with ⟨hs, -, -⟩ | ⟨hs, -, -⟩ | ⟨-, hn, -⟩ | ⟨b, hc, hb, hl⟩ | ⟨hs, rfl⟩
  · exact absurd hs (rxState_ne_waitStart_of_bytesDue due)
  · exact absurd hs (rxState_ne_waitStart_of_bytesDue due)
  · rw [escOff, plain] at hn
    cases hn
  · rw [escOff, plain] at hl
    have inv' := setRxEsc_inv inv hc false
    have taken : t.bytesDue + 1 = s.bytesDue :=
      logicalByte_bytesDue (s := s.setRxEsc false) inv' hc due hl
    have := two_le_bytesDue inv hc due
    exact ⟨taken, fun none => by omega⟩
  · exact ⟨(bytesDue_expectEnd hs).symm, fun _ => rfl⟩

/-- Settles O57: the bytes due are the string's length, and each byte takes one. -/
theorem packetIsCountedOut : Obligations.PacketIsCountedOut := by
  intro cfg ws s wf inv hs escOff noMark length
  replace length : ws.length = s.bytesDue := length.trans (bytesDue_readData hs).symm
  have counted : s.bytesDue = 0 → s.rxState = .waitStart := fun none => by
    rw [bytesDue_readData hs] at none
    omega
  clear hs
  induction ws generalizing s with
  | nil => exact ⟨⟨s, rfl, counted length.symm⟩, fun k hk => absurd hk (Nat.not_lt_zero k)⟩
  | cons w ws ih =>
    obtain ⟨notMark, noMark⟩ := List.ne_and_not_mem_of_not_mem_cons noMark
    have due : s.bytesDue ≠ 0 := by rw [← length]; exact Nat.succ_ne_zero _
    obtain ⟨t, first, inv'⟩ := rxByteTotalForEveryBuild cfg w s wf inv
    obtain ⟨escOff', taken, counted'⟩ := rxByte_bytesDue inv escOff notMark.symm due first
    have length' : ws.length = t.bytesDue := by
      rw [List.length_cons] at length
      omega
    obtain ⟨⟨u, rest, back⟩, before⟩ := ih t inv' escOff' noMark length' counted'
    refine ⟨⟨u, by rw [rxBytes_cons, first, Result.andThen_next, rest], back⟩, fun k hk => ?_⟩
    cases k with
    | zero => exact ⟨s, rfl, rxState_ne_waitStart_of_bytesDue due⟩
    | succ k =>
      obtain ⟨v, rest, inside⟩ := before k (by simpa using hk)
      exact ⟨v, by rw [List.take_succ_cons, rxBytes_cons, first, Result.andThen_next, rest], inside⟩

end Sys2Proof.Machine
end

section
/-! The chunks of a payload (rule R142): cut one at a time from the front, and their law. -/

namespace Sys2Proof.Machine

theorem chunksUpTo_nil (cap fuel : Nat) : chunksUpTo cap fuel [] = [] := by cases fuel <;> rfl

/-- With a capacity, fuel for every byte is as good as any other. -/
theorem chunksUpTo_eq_of_length_le {cap : Nat} (wf : 1 ≤ cap) {fuel fuel' : Nat} {p : List Byte}
    (enough : p.length ≤ fuel) (enough' : p.length ≤ fuel') :
    chunksUpTo cap fuel p = chunksUpTo cap fuel' p := by
  match p, fuel, fuel' with
  | [], _, _ => rw [chunksUpTo_nil, chunksUpTo_nil]
  | b :: rest, fuel + 1, fuel' + 1 =>
    have shorter : ((b :: rest).drop cap).length ≤ rest.length := by
      rw [List.length_drop, List.length_cons]
      omega
    have tail : chunksUpTo cap fuel ((b :: rest).drop cap) =
        chunksUpTo cap fuel' ((b :: rest).drop cap) :=
      chunksUpTo_eq_of_length_le wf (shorter.trans (Nat.le_of_succ_le_succ enough))
        (shorter.trans (Nat.le_of_succ_le_succ enough'))
    exact congrArg ((b :: rest).take cap :: ·) tail

@[simp] theorem chunks_nil (cap : Nat) : chunks cap [] = [] := rfl

/-- The first chunk, and the chunks of what follows it. -/
theorem chunks_of_ne_nil {cap : Nat} (wf : 1 ≤ cap) {p : List Byte} (some_bytes : p ≠ []) :
    chunks cap p = p.take cap :: chunks cap (p.drop cap) := by
  match p with
  | [] => exact absurd rfl some_bytes
  | b :: rest =>
    have enough : ((b :: rest).drop cap).length ≤ rest.length := by
      rw [List.length_drop, List.length_cons]
      omega
    exact congrArg ((b :: rest).take cap :: ·) (chunksUpTo_eq_of_length_le wf enough le_rfl)

/-- A full chunk in front is cut off as it is. -/
theorem chunks_append_of_length_eq {cap : Nat} (wf : 1 ≤ cap) {c : List Byte}
    (full : c.length = cap) (rest : List Byte) : chunks cap (c ++ rest) = c :: chunks cap rest := by
  have some_bytes : c ++ rest ≠ [] := by
    intro h
    have : c = [] := (List.append_eq_nil_iff.mp h).1
    simp [this] at full
    omega
  rw [chunks_of_ne_nil wf some_bytes, ← full, List.take_left, List.drop_left]

/-- Full chunks in front are cut off as they are. -/
theorem chunks_flatten_append {cap : Nat} (wf : 1 ≤ cap) {cs : List (List Byte)}
    (full : ∀ c ∈ cs, c.length = cap) (rest : List Byte) :
    chunks cap (cs.flatten ++ rest) = cs ++ chunks cap rest := by
  induction cs with
  | nil => rfl
  | cons c cs ih =>
    rw [List.flatten_cons, List.append_assoc,
      chunks_append_of_length_eq wf (full c List.mem_cons_self),
      ih fun d hd => full d (List.mem_cons_of_mem c hd), List.cons_append]

/-- A payload that fits is one chunk. -/
theorem chunks_of_length_le {cap : Nat} (wf : 1 ≤ cap) {p : List Byte} (some_bytes : p ≠ [])
    (fits : p.length ≤ cap) : chunks cap p = [p] := by
  rw [chunks_of_ne_nil wf some_bytes, List.take_of_length_le fits, List.drop_of_length_le fits,
    chunks_nil]

/-- A payload that is not empty is full chunks and a last one that is not empty. -/
theorem exists_full_chunks {cap : Nat} (wf : 1 ≤ cap) {p : List Byte} (some_bytes : p ≠ []) :
    ∃ (cs : List (List Byte)) (last : List Byte), (∀ c ∈ cs, c.length = cap) ∧
      1 ≤ last.length ∧ last.length ≤ cap ∧ p = cs.flatten ++ last := by
  by_cases fits : p.length ≤ cap
  · exact ⟨[], p, by simp, List.length_pos_iff.mpr some_bytes, fits, rfl⟩
  · have more : p.drop cap ≠ [] := by simpa using fits
    obtain ⟨cs, last, full, some_last, last_le, rest⟩ := exists_full_chunks wf more
    refine ⟨p.take cap :: cs, last, ?_, some_last, last_le, ?_⟩
    · refine List.forall_mem_cons.mpr ⟨?_, full⟩
      rw [List.length_take]
      omega
    · rw [List.flatten_cons, List.append_assoc, ← rest, List.take_append_drop]
termination_by p.length
decreasing_by
  rw [List.length_drop]
  omega

theorem length_flatten_of_full {cap : Nat} {cs : List (List Byte)}
    (full : ∀ c ∈ cs, c.length = cap) : cs.flatten.length = cap * cs.length := by
  rw [List.length_flatten, List.map_congr_left full, List.map_const', List.sum_replicate,
    smul_eq_mul, Nat.mul_comm]

/-- Settles O50: by the full chunks and the last one. -/
theorem chunkingLaw : Obligations.ChunkingLaw := by
  intro cap p wf
  by_cases empty : p = []
  · subst empty
    have no_room_used : ([] : List Byte).length + cap - 1 < cap := by
      rw [List.length_nil]
      omega
    exact ⟨rfl, (Nat.div_eq_of_lt no_room_used).symm, by simp, by simp⟩
  · obtain ⟨cs, last, full, some_last, last_le, rfl⟩ := exists_full_chunks wf empty
    have cut : chunks cap (cs.flatten ++ last) = cs ++ [last] := by
      rw [chunks_flatten_append wf full,
        chunks_of_length_le wf (List.length_pos_iff.mp some_last) last_le]
    have length : (cs.flatten ++ last).length = cap * cs.length + last.length := by
      rw [List.length_append, length_flatten_of_full full]
    rw [cut, length]
    refine ⟨by simp, ?count, fun k c inner at_k => ?inner, fun c at_end => ?last⟩
    case count =>
      rw [List.length_append, List.length_singleton, Nat.add_sub_assoc wf, Nat.add_assoc,
        Nat.mul_add_div (by omega)]
      congr 1
      refine (Nat.div_eq_of_lt_le ?_ ?_).symm <;> omega
    case inner =>
      have inFull : k < cs.length := by simpa using inner
      rw [List.getElem?_append_left inFull] at at_k
      exact full c (List.mem_of_getElem? at_k)
    case last =>
      obtain rfl : last = c := by simpa using at_end
      refine ⟨some_last, ?_⟩
      rw [List.length_append, List.length_singleton, Nat.add_sub_cancel, Nat.add_comm]

end Sys2Proof.Machine
end

section
/-! What a parser holds after some logical bytes of a packet (rules R136 to R144): the bytes themselves, cut into type, length, payload and checksum. -/

namespace Sys2Proof.Machine

/-! ### Words built up a byte at a time (rule R74) -/

/-- The bytes of `v` are those of `bs`, first byte lowest, and 0 above them. -/
def HoldsBytes (v : Word) (bs : List Byte) : Prop := ∀ k < 4, byteAt v k = bs.getD k 0#8

theorem holdsBytes_zero : HoldsBytes 0#32 [] := fun k _ => byteAt_zero k

/-- The parser's merge takes one byte more. -/
theorem HoldsBytes.merge {v : Word} {bs : List Byte} (held : HoldsBytes v bs) (b : Byte) :
    HoldsBytes (mergeLane v bs.length b) (bs ++ [b]) := by
  intro k hk
  by_cases here : k = bs.length
  · subst here
    rw [byteAt_mergeLane_same v b hk, held _ hk]
    simp
  · rw [byteAt_mergeLane_other v b here, held k hk]
    rcases Nat.lt_or_gt_of_ne here with below | above
    · simp [List.getD, List.getElem?_append_left below]
    · simp [List.getD, List.getElem?_append_right above.le,
        List.getElem?_eq_none above.le, show ¬ k - bs.length = 0 by omega]

/-- Four bytes held are the word. -/
theorem HoldsBytes.le32_eq {v : Word} {bs : List Byte} (held : HoldsBytes v bs)
    (four : bs.length = 4) : le32 v = bs := by
  match bs with
  | [b0, b1, b2, b3] =>
    simp [le32, held 0 (by decide), held 1 (by decide), held 2 (by decide), held 3 (by decide)]

/-! ### Between the type byte and the end of the length field -/

/-- READ_LENGTH after the type `t` and the length bytes `ls`, with `ev` emitted before. -/
structure InHeader (ev : List Event) (t : Byte) (ls : List Byte) (s : State) : Prop where
  state : s.rxState = .readLength
  type : s.rxType = t
  more : ls.length ≤ 3
  count : s.rxLenCnt.toNat = ls.length
  len : HoldsBytes s.rxLen ls
  crc : s.rxCrc = crcFold crcSeedValue (t :: ls)
  read : s.rxRead = 0#32
  sum : s.rxSum = 0#32
  sumCount : s.rxSumCnt = 0#3
  buf : s.rxBuf.wf = true
  events : s.events = ev

/-- READ_DATA after the payload bytes `q`, with more to come: full chunks handed over, the rest in the buffer. -/
structure InPayload (cfg : Config) (ev : List Event) (t : Byte) (len : Word) (q : List Byte)
    (full : List (List Byte)) (s : State) : Prop where
  state : s.rxState = .readData
  type : s.rxType = t
  length : s.rxLen = len
  more : q.length < len.toNat
  read : s.rxRead.toNat = q.length
  crc : s.rxCrc = crcFold crcSeedValue (coveredBytes t len q)
  sum : s.rxSum = 0#32
  sumCount : s.rxSumCnt = 0#3
  buf : s.rxBuf.wf = true
  room : s.rxBufN < cfg.chunkCap
  full_length : ∀ c ∈ full, c.length = cfg.chunkCap
  stored : q = full.flatten ++ s.chunk
  events : s.events = ev ++ .start t len :: full.map fun c => Event.data t c.length c

/-- After the whole payload `p` and the checksum bytes `sum`: READ_CRC, EXPECT_END after the fourth, and READ_DATA before the first where the payload is empty. -/
structure InTrailer (cfg : Config) (ev : List Event) (t : Byte) (len : Word) (p sum : List Byte)
    (s : State) : Prop where
  state : (sum.length = 4 ∧ s.rxState = .expectEnd ∧ s.rxEsc = false) ∨
    (sum.length ≤ 3 ∧ s.rxState = .readCrc) ∨
    (sum = [] ∧ s.rxState = .readData)
  type : s.rxType = t
  length : s.rxLen = len
  complete : p.length = len.toNat
  read : s.rxRead = len
  crc : s.rxCrc = crcFold crcSeedValue (coveredBytes t len p)
  sumBytes : HoldsBytes s.rxSum sum
  sumCount : s.rxSumCnt.toNat = sum.length
  events : s.events =
    ev ++ .start t len :: (chunks cfg.chunkCap p).map fun c => Event.data t c.length c

/-- A parser inside a packet, after the logical bytes given and with `ev` emitted before the packet. -/
inductive Received (cfg : Config) (ev : List Event) : List Byte → State → Prop
  | opened {s : State} (state : s.rxState = .readType) (buf : s.rxBuf.wf = true)
      (events : s.events = ev) : Received cfg ev [] s
  | header {t : Byte} {ls : List Byte} {s : State} (h : InHeader ev t ls s) :
      Received cfg ev (t :: ls) s
  | payload {t : Byte} {len : Word} {q : List Byte} {full : List (List Byte)} {s : State}
      (h : InPayload cfg ev t len q full s) : Received cfg ev (coveredBytes t len q) s
  | trailer {t : Byte} {len : Word} {p sum : List Byte} {s : State}
      (h : InTrailer cfg ev t len p sum s) : Received cfg ev (coveredBytes t len p ++ sum) s

/-! ### One more logical byte -/

theorem takeType_received {ev : List Event} {s : State} (buf : s.rxBuf.wf = true)
    (events : s.events = ev) (b : Byte) : InHeader ev b [] (takeType b s) where
  state := rfl
  type := rfl
  more := Nat.zero_le 3
  count := rfl
  len := holdsBytes_zero
  crc := rfl
  read := rfl
  sum := rfl
  sumCount := rfl
  buf := buf
  events := events

theorem coveredBytes_concat (t : Byte) (len : Word) (q : List Byte) (b : Byte) :
    coveredBytes t len q ++ [b] = coveredBytes t len (q ++ [b]) := by
  simp [coveredBytes]

theorem takeLength_received {cfg : Config} (wf : cfg.wf) {ev : List Event} {t : Byte}
    {ls : List Byte} {s : State} (h : InHeader ev t ls s) (b : Byte) :
    Received cfg ev (t :: ls ++ [b]) (takeLength b s) := by
  have crc : (mergeLength b s).rxCrc = crcFold crcSeedValue (t :: (ls ++ [b])) := by
    show crcUpdateFn s.rxCrc b = _
    rw [h.crc, ← List.cons_append, crcFold_append]
    rfl
  have len : HoldsBytes (mergeLength b s).rxLen (ls ++ [b]) := by
    show HoldsBytes (mergeLane s.rxLen s.rxLenCnt.toNat b) _
    rw [h.count]
    exact h.len.merge b
  have count : (s.rxLenCnt + 1#3).toNat = (ls ++ [b]).length := by
    rw [List.length_append, List.length_singleton, ← h.count]
    exact (count_toNat_succ (n := s.rxLenCnt) (by rw [BitVec.le_def, h.count]; exact h.more)).2
  rw [takeLength]
  split
  case isTrue last =>
    replace last : s.rxLenCnt + 1#3 = 4#3 := last
    have field : ls ++ [b] = le32 (mergeLength b s).rxLen :=
      (len.le32_eq (by rw [← count, last]; rfl)).symm
    have covered (v : Word) : t :: le32 v = coveredBytes t v [] := by simp [coveredBytes]
    rw [List.cons_append, field, covered]
    rw [field, covered] at crc
    rcases zero_lt_or_eq_zero (mergeLength b s).rxLen with some_bytes | empty
    · exact .payload (full := []) {
        state := rfl, type := h.type, length := rfl, more := some_bytes
        read := congrArg BitVec.toNat h.read, crc := crc, sum := h.sum, sumCount := h.sumCount
        buf := h.buf, room := wf, full_length := by simp, stored := rfl
        events := by
          show s.events ++ [Event.start s.rxType _] = _
          rw [h.events, h.type]
          rfl }
    · rw [← List.append_nil (coveredBytes _ _ _)]
      exact .trailer {
        state := .inr (.inr ⟨rfl, rfl⟩), type := h.type, length := rfl
        complete := (congrArg BitVec.toNat empty).symm
        read := h.read.trans empty.symm, crc := crc
        sumBytes := h.sum.symm ▸ holdsBytes_zero
        sumCount := congrArg BitVec.toNat h.sumCount
        events := by
          show s.events ++ [Event.start s.rxType _] = _
          rw [h.events, h.type]
          rfl }
  case isFalse more =>
    refine .header (ls := ls ++ [b]) { h with more := ?_, count := count, len := len, crc := crc }
    have not_four : (s.rxLenCnt + 1#3).toNat ≠ 4 := fun four => more (BitVec.eq_of_toNat_eq four)
    have := h.more
    rw [count, List.length_append, List.length_singleton] at not_four
    rw [List.length_append, List.length_singleton]
    omega

/-- A payload byte, and the chunk it completes (rules R141, R142). -/
theorem finishPayload_received {cfg : Config} {ev : List Event} {t : Byte} {len : Word}
    {q : List Byte} {full : List (List Byte)} {s : State} (h : InPayload cfg ev t len q full s)
    (b : Byte) :
    Received cfg ev (coveredBytes t len q ++ [b]) (finishPayload cfg (storedPayload b s)) := by
  have due : s.rxRead < s.rxLen := by
    rw [BitVec.lt_def, h.read, h.length]
    exact h.more
  have crc : (storedPayload b s).rxCrc = crcFold crcSeedValue (coveredBytes t len (q ++ [b])) := by
    show crcUpdateFn s.rxCrc b = _
    rw [h.crc, ← coveredBytes_concat, crcFold_append]
    rfl
  have read : (storedPayload b s).rxRead.toNat = (q ++ [b]).length := by
    rw [List.length_append, List.length_singleton, ← h.read]
    exact toNat_succ_of_lt due
  have buf : (storedPayload b s).rxBuf.wf = true := Memory.write_wf _ _ _ h.buf
  have stored : q ++ [b] = full.flatten ++ (storedPayload b s).chunk := by
    rw [storedPayload_chunk b s h.buf, ← List.append_assoc, ← h.stored]
  have chunk_length : (storedPayload b s).chunk.length = s.rxBufN + 1 := State.chunk_length _
  have room := h.room
  have flushed : s.events ++ [Event.data s.rxType (s.rxBufN + 1) (storedPayload b s).chunk] =
      ev ++ .start t len ::
        (full ++ [(storedPayload b s).chunk]).map fun c => Event.data t c.length c := by
    rw [h.events, h.type]
    simp [chunk_length]
  rw [coveredBytes_concat, finishPayload_cases]
  split_ifs with complete filled
  · have cut : chunks cfg.chunkCap (q ++ [b]) = full ++ [(storedPayload b s).chunk] := by
      have wf : 1 ≤ cfg.chunkCap := Nat.one_le_of_lt room
      have some_bytes : (storedPayload b s).chunk ≠ [] := by
        rw [← List.length_pos_iff, chunk_length]
        exact Nat.succ_pos _
      rw [stored, chunks_flatten_append wf h.full_length,
        chunks_of_length_le wf some_bytes (by omega)]
    rw [← List.append_nil (coveredBytes _ _ _)]
    exact .trailer {
      state := .inr (.inl ⟨Nat.zero_le 3, rfl⟩), type := h.type, length := h.length
      complete := by rw [← read, complete, ← h.length]; rfl
      read := complete.trans h.length, crc := crc
      sumBytes := show HoldsBytes s.rxSum [] from h.sum.symm ▸ holdsBytes_zero
      sumCount := congrArg BitVec.toNat h.sumCount
      events := by rw [cut]; exact flushed }
  · have more : (q ++ [b]).length < len.toNat := by
      rw [← read, ← h.length]
      exact succ_lt_of_ne due complete
    exact .payload (full := full ++ [(storedPayload b s).chunk]) {
      state := h.state, type := h.type, length := h.length, more := more, read := read
      crc := crc, sum := h.sum, sumCount := h.sumCount, buf := buf
      room := Nat.zero_lt_of_lt room
      full_length := by
        intro c hc
        rcases List.mem_append.mp hc with hc | hc
        · exact h.full_length c hc
        · rw [List.mem_singleton.mp hc, chunk_length]
          exact filled
      stored := by rw [stored]; simp [State.chunk, flushChunk]
      events := flushed }
  · have more : (q ++ [b]).length < len.toNat := by
      rw [← read, ← h.length]
      exact succ_lt_of_ne due complete
    exact .payload (full := full) {
      state := h.state, type := h.type, length := h.length, more := more, read := read
      crc := crc, sum := h.sum, sumCount := h.sumCount, buf := buf
      room := lt_of_le_of_ne room filled
      full_length := h.full_length, stored := stored, events := h.events }

/-- A checksum byte (rule R144). -/
theorem takeSum_received {cfg : Config} {ev : List Event} {t : Byte} {len : Word}
    {p sum : List Byte} {s : State} (h : InTrailer cfg ev t len p sum s) (escOff : s.rxEsc = false)
    (more : sum.length ≤ 3) (b : Byte) : InTrailer cfg ev t len p (sum ++ [b]) (takeSum b s) := by
  have count : (s.rxSumCnt + 1#3).toNat = (sum ++ [b]).length := by
    rw [List.length_append, List.length_singleton, ← h.sumCount]
    exact (count_toNat_succ (n := s.rxSumCnt) (by rw [BitVec.le_def, h.sumCount]; exact more)).2
  have four_iff : s.rxSumCnt + 1#3 = 4#3 ↔ (sum ++ [b]).length = 4 := by
    rw [← count]
    exact ⟨fun four => by rw [four]; rfl, fun four => BitVec.eq_of_toNat_eq four⟩
  refine { h with state := ?_, sumBytes := ?_, sumCount := count }
  · by_cases last : (sum ++ [b]).length = 4
    · exact .inl ⟨last, if_pos (four_iff.mpr last), escOff⟩
    · refine .inr (.inl ⟨?_, if_neg fun four => last (four_iff.mp four)⟩)
      rw [List.length_append, List.length_singleton] at last ⊢
      omega
  · show HoldsBytes (mergeLane s.rxSum s.rxSumCnt.toNat b) _
    rw [h.sumCount]
    exact h.sumBytes.merge b

/-- LOGICAL takes one more byte of the packet (rule R135). -/
theorem logicalByte_received {cfg : Config} (wf : cfg.wf) {ev : List Event} {ls : List Byte}
    {s : State} (received : Received cfg ev ls s) (hc : s.rxState.isContent = true)
    (escOff : s.rxEsc = false) (b : Byte) :
    ∃ t, logicalByte cfg b s = .next t ∧ Received cfg ev (ls ++ [b]) t := by
  cases received with
  | opened state buf events =>
    exact ⟨_, logicalByte_readType _ _ _ state, .header (takeType_received buf events b)⟩
  | header h => exact ⟨_, logicalByte_readLength _ _ _ h.state, takeLength_received wf h b⟩
  | payload h =>
    have due : s.rxRead < s.rxLen := by
      rw [BitVec.lt_def, h.read, h.length]
      exact h.more
    exact ⟨_, (logicalByte_payload _ _ _ h.state due).trans (takePayload_next _ _ _ h.room),
      finishPayload_received h b⟩
  | @trailer t len p sum _ h =>
    have notDue : ¬ s.rxRead < s.rxLen := by
      rw [h.read, h.length]
      exact BitVec.lt_irrefl _
    rw [List.append_assoc]
    rcases h.state with ⟨-, state, -⟩ | ⟨more, state⟩ | ⟨none, state⟩
    · rw [state] at hc
      cases hc
    · exact ⟨_, logicalByte_checksum _ _ _ (.inl state),
        .trailer (takeSum_received h escOff more b)⟩
    · exact ⟨_, logicalByte_checksum _ _ _ (.inr ⟨state, notDue⟩),
        .trailer (takeSum_received h escOff (none ▸ Nat.zero_le 3) b)⟩

end Sys2Proof.Machine
end

section
/-! Whole packets (rules R142, R155, R168): a string between two delimiters is found valid just when it un-stuffs to a packet with its checksum. -/

namespace Sys2Proof.Machine

/-! ### What the received bytes say of the parser -/

/-- The flag is no part of what has been received, while the packet is not over. -/
theorem Received.setRxEsc {cfg : Config} {ev : List Event} {ls : List Byte} {s : State}
    (received : Received cfg ev ls s) (hc : s.rxState.isContent = true) (p : Bool) :
    Received cfg ev ls (s.setRxEsc p) := by
  cases received with
  | opened state buf events => exact .opened state buf events
  | header h => exact .header { h with }
  | payload h => exact .payload { h with }
  | trailer h =>
    refine .trailer { h with state := h.state.imp_left fun ⟨_, state, _⟩ => ?_ }
    rw [state] at hc
    cases hc

/-- Inside a packet the parser reads logical bytes, or it has the whole checksum and no escape is pending. -/
theorem Received.content_or_complete {cfg : Config} {ev : List Event} {ls : List Byte} {s : State}
    (received : Received cfg ev ls s) :
    s.rxState.isContent = true ∨
    (s.rxState = .expectEnd ∧ s.rxEsc = false ∧ ∃ t len p sum, ls = coveredBytes t len p ++ sum ∧
      sum.length = 4 ∧ InTrailer cfg ev t len p sum s) := by
  cases received with
  | opened state buf events => exact .inl (by rw [state]; rfl)
  | header h => exact .inl (by rw [h.state]; rfl)
  | payload h => exact .inl (by rw [h.state]; rfl)
  | trailer h =>
    rcases h.state with ⟨four, state, escOff⟩ | ⟨-, state⟩ | ⟨-, state⟩
    · exact .inr ⟨state, escOff, _, _, _, _, rfl, four, h⟩
    · exact .inl (by rw [state]; rfl)
    · exact .inl (by rw [state]; rfl)

theorem le32_append_inj {v w : Word} {p q : List Byte} (h : le32 v ++ p = le32 w ++ q) :
    v = w ∧ p = q :=
  (List.append_inj h rfl).imp_left fun field => le32_injective field

/-- Type and length are read off the front of the covered bytes (rule R73). -/
theorem coveredBytes_append_inj {t u : Byte} {len len' : Word} {p q r r' : List Byte}
    (h : coveredBytes t len p ++ r = coveredBytes u len' q ++ r') :
    t = u ∧ len = len' ∧ p ++ r = q ++ r' := by
  simp only [coveredBytes, List.cons_append, List.append_assoc, List.cons.injEq] at h
  obtain ⟨type, rest⟩ := h
  exact ⟨type, le32_append_inj rest⟩

/-- A whole checksum is the end of a frame's logical bytes: nothing of them is left. -/
theorem complete_of_append_eq_frameLogical {t u : Byte} {len len' : Word}
    {p q sum rest : List Byte} (complete : p.length = len.toNat) (complete' : q.length = len'.toNat)
    (four : sum.length = 4) (h : coveredBytes u len' q ++ sum ++ rest = frameLogical t len p) :
    rest = [] ∧ u = t ∧ len' = len ∧ q = p ∧ sum = le32 (crc32 (coveredBytes t len p)) := by
  rw [frameLogical, List.append_assoc] at h
  obtain ⟨rfl, rfl, tail⟩ := coveredBytes_append_inj h
  obtain ⟨rfl, sums⟩ := List.append_inj tail (complete'.trans complete.symm)
  obtain ⟨sums, rest_nil⟩ := List.append_inj (sums.trans (List.append_nil _).symm) four
  exact ⟨rest_nil, rfl, rfl, rfl, sums⟩

/-- A parser that has received a frame's logical bytes has the whole checksum of that frame. -/
theorem Received.complete {cfg : Config} {ev : List Event} {t : Byte} {len : Word} {p : List Byte}
    {s : State} (received : Received cfg ev (frameLogical t len p) s)
    (complete : p.length = len.toNat) :
    s.rxState = .expectEnd ∧ s.rxEsc = false ∧
      InTrailer cfg ev t len p (le32 (crc32 (coveredBytes t len p))) s := by
  have whole := frameLogical_length t len p
  generalize logical : frameLogical t len p = ls at received whole
  cases received with
  | opened =>
    rw [List.length_nil] at whole
    omega
  | header h =>
    have := h.more
    rw [List.length_cons] at whole
    omega
  | @payload u len' q _ _ h =>
    have := h.more
    rw [coveredBytes_length] at whole
    rw [frameLogical, ← List.append_nil (coveredBytes u len' q)] at logical
    obtain ⟨-, rfl, -⟩ := coveredBytes_append_inj logical
    omega
  | @trailer u len' q sum _ h =>
    have lengths := h.complete
    rw [List.length_append, coveredBytes_length] at whole
    obtain ⟨-, same_len, -⟩ := coveredBytes_append_inj logical
    have four : sum.length = 4 := by
      rw [← same_len] at lengths
      omega
    obtain ⟨-, rfl, rfl, rfl, rfl⟩ := complete_of_append_eq_frameLogical complete h.complete four
      ((List.append_nil _).trans logical.symm)
    rcases h.state with ⟨-, state, escOff⟩ | ⟨more, -⟩ | ⟨none, -⟩
    · exact ⟨state, escOff, h⟩
    · rw [four] at more
      omega
    · cases none

/-! ### Wire bytes -/

/-- Inside a packet RX.STEP receives what the codec's decoder delivers (rule R132). -/
theorem rxByte_received {cfg : Config} (wf : cfg.wf) (unstuffs : cfg.rxUnescape = true)
    {ev : List Event} {ls : List Byte} {s : State} (received : Received cfg ev ls s)
    (hc : s.rxState.isContent = true) (w : Byte) :
    ∃ t, rxByte cfg w s = .next t ∧ t.rxEsc = (stuffDecFn s.rxEsc w).1 ∧
      Received cfg ev (ls ++ (stuffDecFn s.rxEsc w).2.toList) t := by
  have stage := unescapeStage_on cfg s.rxEsc w unstuffs
  rw [rxByte_content _ _ _ hc, stage]
  cases delivered : (stuffDecFn s.rxEsc w).2 with
  | none =>
    refine ⟨s.setRxEsc (stuffDecFn s.rxEsc w).1, by rw [deliverLogical, delivered], rfl, ?_⟩
    simpa using received.setRxEsc hc _
  | some b =>
    have escOff : (stuffDecFn s.rxEsc w).1 = false :=
      stage ▸ unescapeStage_clears (stage ▸ delivered)
    obtain ⟨t, h, received'⟩ := logicalByte_received wf (received.setRxEsc hc false) hc rfl b
    refine ⟨t, by rw [deliverLogical, delivered, escOff]; exact h, ?_, received'⟩
    rw [escOff]
    exact logicalByte_rxEsc (s := s.setRxEsc false) hc h

/-- A string that is not empty and leaves no escape pending delivers something. -/
theorem stuffDecAll_cons_ne_nil (w : Byte) (ws : List Byte) :
    stuffDecAll false (w :: ws) ≠ (false, []) := by
  by_cases isMark : w = escapeMark
  · subst isMark
    rw [stuffDecAll_cons, stuffDecFn_mark]
    match ws with
    | [] => simp
    | x :: ws => simp [stuffDecAll_cons]
  · simp [stuffDecAll_cons, stuffDecFn_plain w isMark]

/-- The wire bytes of a frame's logical bytes, however they are stuffed, are received up to the last (rule R155). -/
theorem rxBytes_received_frameLogical {cfg : Config} (wf : cfg.wf)
    (unstuffs : cfg.rxUnescape = true) {ev : List Event} {t : Byte} {len : Word} {p : List Byte}
    (complete : p.length = len.toNat) {x ls rest : List Byte} {s : State}
    (received : Received cfg ev ls s) (decodes : stuffDecAll s.rxEsc x = (false, rest))
    (whole : ls ++ rest = frameLogical t len p) :
    ∃ u, rxBytes cfg x s = .next u ∧ Received cfg ev (frameLogical t len p) u := by
  induction x generalizing s ls rest with
  | nil =>
    obtain rfl : [] = rest := congrArg Prod.snd decodes
    exact ⟨s, rfl, by rw [← whole, List.append_nil]; exact received⟩
  | cons w ws ih =>
    rcases received.content_or_complete with hc | ⟨-, escOff, u, len', q, sum, rfl, four, h⟩
    · obtain ⟨u, first, escNext, received'⟩ := rxByte_received wf unstuffs received hc w
      rw [stuffDecAll_cons, Prod.mk.injEq] at decodes
      obtain ⟨pending, rfl⟩ := decodes
      obtain ⟨v, later, received''⟩ := ih received' (by rw [escNext, ← pending])
        (by rw [List.append_assoc]; exact whole)
      exact ⟨v, by rw [rxBytes_cons, first, Result.andThen_next, later], received''⟩
    · obtain ⟨rfl, -⟩ := complete_of_append_eq_frameLogical complete h.complete four whole
      rw [escOff] at decodes
      exact absurd decodes (stuffDecAll_cons_ne_nil w ws)

/-! ### The two delimiters -/

/-- The opening delimiter, met between packets (rule R133). -/
theorem rxByte_open {cfg : Config} {s : State} (idle : s.idle) (buf : s.rxBuf.wf = true) :
    ∃ u, rxByte cfg frameDelim s = .next u ∧ u.rxEsc = false ∧ Received cfg s.events [] u := by
  obtain ⟨state, escOff⟩ := idle
  exact ⟨s.setRxState .readType, by rw [rxByte_waitStart _ _ _ state, if_pos rfl], escOff,
    .opened rfl buf rfl⟩

/-- The checksum received is the one computed just when its bytes are (rule R146). -/
theorem InTrailer.crcFinalize_eq_iff {cfg : Config} {ev : List Event} {t : Byte} {len : Word}
    {p sum : List Byte} {s : State} (h : InTrailer cfg ev t len p sum s) (four : sum.length = 4) :
    crcFinalize s.rxCrc = s.rxSum ↔ sum = le32 (crc32 (coveredBytes t len p)) := by
  rw [← h.sumBytes.le32_eq four, le32_injective.eq_iff, h.crc, eq_comm]
  rfl

/-- The verdict at the closing delimiter (rule R146). -/
theorem InTrailer.validFlag_eq {cfg : Config} {ev : List Event} {t : Byte} {len : Word}
    {p sum : List Byte} {s : State} (h : InTrailer cfg ev t len p sum s) (four : sum.length = 4) :
    validFlag s.rxSumCnt s.rxCrc s.rxSum frameDelim =
      decide (sum = le32 (crc32 (coveredBytes t len p))) := by
  have count : s.rxSumCnt = 4#3 := BitVec.eq_of_toNat_eq (h.sumCount.trans four)
  rw [validFlag_eq_decide, decide_eq_decide, ← h.crcFinalize_eq_iff four]
  exact ⟨fun ⟨_, good, _⟩ => good, fun good => ⟨count, good, rfl⟩⟩

/-- FINISHED closes the packet's events (rule R156). -/
theorem InTrailer.finishPacket_events {cfg : Config} {ev : List Event} {t : Byte} {len : Word}
    {p sum : List Byte} {s : State} (h : InTrailer cfg ev t len p sum s) (valid : Bool) :
    (finishPacket valid s).events = ev ++ packetEvents cfg.chunkCap t len p valid := by
  show s.events ++ [Event.finished s.rxType valid] = _
  rw [h.events, h.type]
  simp [packetEvents]

/-- A string between two delimiters that un-stuffs to a frame's logical bytes: the packet is delivered and found valid, and the session registers hold it (rules R155, R168). -/
theorem rxBytes_packet {cfg : Config} (wf : cfg.wf) (unstuffs : cfg.rxUnescape = true)
    {x : List Byte} {t : Byte} {len : Word} {p : List Byte} {s : State} (idle : s.idle)
    (buf : s.rxBuf.wf = true) (complete : p.length = len.toNat)
    (decodes : stuffDecAll false x = (false, frameLogical t len p)) :
    ∃ s', rxBytes cfg (frameDelim :: (x ++ [frameDelim])) s = .next s' ∧
      s'.events = s.events ++ packetEvents cfg.chunkCap t len p true ∧ s'.idle ∧
      s'.rxType = t ∧ s'.rxLen = len ∧ s'.rxRead = len ∧ s'.rxSum = crcFinalize s'.rxCrc := by
  obtain ⟨u, opens, escOff, opened⟩ := rxByte_open (cfg := cfg) idle buf
  obtain ⟨v, receives, received⟩ := rxBytes_received_frameLogical wf unstuffs complete opened
    (by rw [escOff]; exact decodes) (List.nil_append _)
  obtain ⟨state, escOff', h⟩ := received.complete complete
  refine ⟨finishPacket true v, ?_, h.finishPacket_events true, ⟨rfl, escOff'⟩, h.type, h.length,
    h.read, ((h.crcFinalize_eq_iff rfl).mpr rfl).symm⟩
  rw [rxBytes_cons, opens, Result.andThen_next, rxBytes_append, receives, Result.andThen_next,
    rxBytes_singleton, rxByte_expectEnd _ _ _ state, h.validFlag_eq rfl, decide_eq_true rfl]

/-! ### The round trip and the two halves of acceptance -/

/-- Settles O53, the delivery of one packet. -/
theorem validWireStringsAreAccepted : Obligations.ValidWireStringsAreAccepted := by
  intro cfg x t len p s wf unstuffs idle buf complete decodes
  obtain ⟨s', h, events, idle', -⟩ := rxBytes_packet wf unstuffs idle buf complete decodes
  exact ⟨s', h, events, idle'⟩

/-- Settles O51: what TX.SEND writes is a stuffed frame between two delimiters. -/
theorem sentFramesAreReceived : Obligations.SentFramesAreReceived := by
  intro cfg t len p s r wf unstuffs complete idle buf
  obtain ⟨r', receives, events, idle', -⟩ := rxBytes_packet wf unstuffs idle buf complete
    (decodingUndoesEncoding (frameLogical t len p))
  refine ⟨_, _, r', txSendResult t len p s complete, rfl, ?_, events, idle'⟩
  rw [← receives]
  simp [frameLogical, coveredBytes, crc32]

/-- Settles O52: the row is the delivery of a stuffed frame. -/
theorem frameRowDeliversItsPacket : Obligations.FrameRowDeliversItsPacket := by
  intro t p s short idle buf
  obtain ⟨s', receives, events, idle', session⟩ := rxBytes_packet hardware_wf rfl idle buf
    (toNat_ofNat_length short).symm
    (decodingUndoesEncoding (frameLogical t (BitVec.ofNat 32 p.length) p))
  have runs : exec (.frame t p) s = .next s' := (exec_frame short t s).trans receives
  obtain ⟨type, len, read, sum⟩ := session
  exact ⟨s', runs, events, idle', type, len, read, sum, receivingLeavesTheRestAlone _ s s' rfl runs⟩

end Sys2Proof.Machine
end

section
/-! Acceptance, only if (rule R155): what a parser says of a string whose one packet it finds valid. -/

namespace Sys2Proof.Machine

/-! ### The events of a delivery -/

/-- A delivery emits after what was emitted before. -/
theorem rxBytes_events {cfg : Config} {ws : List Byte} {s t : State}
    (h : rxBytes cfg ws s = .next t) : ∃ es, t.events = s.events ++ es := by
  induction ws generalizing s with
  | nil => cases h; exact ⟨[], (List.append_nil _).symm⟩
  | cons w ws ih =>
    obtain ⟨u, first, rest⟩ := Result.andThen_eq_next h
    obtain ⟨es, later⟩ := ih rest
    rcases atMostOneEventPerStep cfg w s u first with none | ⟨e, one⟩
    · exact ⟨es, by rw [later, none]⟩
    · exact ⟨e :: es, by rw [later, one, List.append_assoc]; rfl⟩

/-- LOGICAL never ends a packet. -/
theorem logicalByte_ne_waitStart {cfg : Config} {b : Byte} {s t : State}
    (hc : s.rxState.isContent = true) (h : logicalByte cfg b s = .next t) :
    t.rxState ≠ .waitStart := by
  have sum_ne : (takeSum b s).rxState ≠ .waitStart := by
    by_cases last : s.rxSumCnt + 1#3 = 4#3 <;> simp [takeSum, last]
  rcases logicalByte_cases hc h with
    ⟨-, rfl⟩ | ⟨hs, rfl⟩ | ⟨hs, -, -, rfl⟩ | ⟨-, -, rfl⟩ | ⟨-, rfl⟩
  · exact RxState.noConfusion
  · rw [takeLength]
    split
    · exact RxState.noConfusion
    · show s.rxState ≠ _
      rw [hs]
      exact RxState.noConfusion
  · rw [finishPayload_cases]
    split_ifs
    · exact RxState.noConfusion
    · show s.rxState ≠ _
      rw [hs]
      exact RxState.noConfusion
    · show s.rxState ≠ _
      rw [hs]
      exact RxState.noConfusion
  · exact sum_ne
  · exact sum_ne

/-- A delimiter after which the parser is between packets was a closing one. -/
theorem rxState_of_rxByte_delim {cfg : Config} {s t : State}
    (h : rxByte cfg frameDelim s = .next t) (back : t.rxState = .waitStart) :
    s.rxState = .expectEnd := by
  rcases rxByte_cases h with ⟨-, -, rfl⟩ | ⟨-, other, -⟩ | ⟨hc, -, rfl⟩ | ⟨b, hc, -, hl⟩ | ⟨hs, -⟩
  · cases back
  · exact absurd rfl other
  · rw [show s.rxState = _ from back] at hc
    cases hc
  · exact absurd back
      (logicalByte_ne_waitStart (s := s.setRxEsc (unescapeStage cfg s.rxEsc frameDelim).1) hc hl)
  · exact hs

/-- A delivery that ends in a delimiter and between packets ends in a FINISHED event. -/
theorem rxBytes_delim_events {cfg : Config} {ws : List Byte} {s t : State}
    (h : rxBytes cfg (ws ++ [frameDelim]) s = .next t) (back : t.rxState = .waitStart) :
    ∃ es ty valid, t.events = s.events ++ es ++ [.finished ty valid] := by
  rw [rxBytes_append] at h
  obtain ⟨u, first, last⟩ := Result.andThen_eq_next h
  rw [rxBytes_singleton] at last
  obtain ⟨es, before⟩ := rxBytes_events first
  rw [rxByte_expectEnd _ _ _ (rxState_of_rxByte_delim last back)] at last
  cases last
  exact ⟨es, _, _, by rw [← before]; rfl⟩

/-! ### A string fed to an open packet -/

/-- Inside a packet a whole string is received, or the packet's end comes before the string's. -/
theorem rxBytes_received_or_complete {cfg : Config} (wf : cfg.wf)
    (unstuffs : cfg.rxUnescape = true) {ev : List Event} {x ls : List Byte} {s t : State}
    (received : Received cfg ev ls s) (h : rxBytes cfg x s = .next t) :
    (t.rxEsc = (stuffDecAll s.rxEsc x).1 ∧
      Received cfg ev (ls ++ (stuffDecAll s.rxEsc x).2) t) ∨
    ∃ u w v ty len p sum, u.rxState = .expectEnd ∧ InTrailer cfg ev ty len p sum u ∧
      rxBytes cfg (w :: v) u = .next t := by
  induction x generalizing s ls with
  | nil => cases h; exact .inl ⟨rfl, by rw [stuffDecAll_nil, List.append_nil]; exact received⟩
  | cons w ws ih =>
    rcases received.content_or_complete with hc | ⟨state, -, ty, len, p, sum, -, -, trailer⟩
    · obtain ⟨u, first, escNext, received'⟩ := rxByte_received wf unstuffs received hc w
      rw [rxBytes_cons, first, Result.andThen_next] at h
      rw [stuffDecAll_cons, ← List.append_assoc, ← escNext]
      exact ih received' h
    · exact .inr ⟨s, w, ws, ty, len, p, sum, state, trailer, h⟩

/-- Two packets' events that end alike. -/
theorem concat_inj {es fs : List Event} {e f : Event} (h : es ++ [e] = fs ++ [f]) :
    es = fs ∧ e = f :=
  (List.append_inj' h rfl).imp_right fun single => (List.cons.inj single).1

/-- A packet whose end comes before the string's shows a FINISHED among what should be chunks. -/
theorem finished_mem_of_early {cfg : Config} {ev ds : List Event} {t ty : Byte}
    {len len' : Word} {p sum ws : List Byte} {w : Byte} {last : Event} {u s' : State}
    (state : u.rxState = .expectEnd) (trailer : InTrailer cfg ev ty len' p sum u)
    (h : rxBytes cfg (w :: ws ++ [frameDelim]) u = .next s') (back : s'.rxState = .waitStart)
    (events : s'.events = ev ++ .start t len :: (ds ++ [last])) :
    ∃ valid, Event.finished ty valid ∈ ds := by
  rw [List.cons_append, rxBytes_cons, rxByte_expectEnd _ _ _ state, Result.andThen_next] at h
  obtain ⟨es, ty', valid', emitted⟩ := rxBytes_delim_events h back
  rw [trailer.finishPacket_events, events, List.append_assoc, List.append_assoc] at emitted
  have same := List.append_cancel_left emitted
  rw [packetEvents, List.cons_append, List.cons.injEq, ← List.append_assoc] at same
  obtain ⟨chunksToo, -⟩ := concat_inj same.2
  exact ⟨validFlag u.rxSumCnt u.rxCrc u.rxSum w, by rw [chunksToo]; simp⟩

/-- Settles O54: the string is received as a whole, for a packet that ends before it would show a FINISHED among the chunks. -/
theorem acceptedWireStringsAreValid : Obligations.AcceptedWireStringsAreValid := by
  intro cfg x t len ds s s' wf unstuffs idle buf h back chunksOnly events
  obtain ⟨u, opens, escOff, opened⟩ := rxByte_open (cfg := cfg) idle buf
  rw [rxBytes_cons, opens, Result.andThen_next] at h
  rw [rxBytes_append] at h
  obtain ⟨v, first, last⟩ := Result.andThen_eq_next h
  rw [rxBytes_singleton] at last
  have state := rxState_of_rxByte_delim last back
  rcases rxBytes_received_or_complete wf unstuffs opened first with
    ⟨pending, received⟩ | ⟨y, w, ws, ty, len', p, sum, early, trailer, rest⟩
  · rcases received.content_or_complete with
      hc | ⟨-, escOff', ty, len', p, sum, decoded, four, trailer⟩
    · rw [state] at hc
      cases hc
    · rw [rxByte_expectEnd _ _ _ state, trailer.validFlag_eq four] at last
      cases last
      rw [trailer.finishPacket_events] at events
      have same := List.append_cancel_left events
      rw [packetEvents, List.cons.injEq] at same
      obtain ⟨opening, closing⟩ := same
      obtain ⟨chunked, finish⟩ := concat_inj closing
      cases opening
      have good : sum = le32 (crc32 (coveredBytes t len p)) := by simpa using finish
      refine ⟨p, trailer.complete, ?_, by rw [packetEvents, chunked]⟩
      rw [escOff] at pending decoded
      exact Prod.ext (pending.symm.trans escOff') (by rw [frameLogical, ← good, ← decoded]; rfl)
  · have early_end : rxBytes cfg (w :: ws ++ [frameDelim]) y = .next s' := by
      rw [rxBytes_append, rest, Result.andThen_next, rxBytes_singleton, last]
    obtain ⟨valid, among⟩ := finished_mem_of_early early trailer early_end back events
    obtain ⟨_, _, _, chunk⟩ := chunksOnly _ among
    cases chunk

end Sys2Proof.Machine
end

section
/-! What a parser's past can show (rule R42): two parsers that differ in what no packet has written answer every string alike. -/

namespace Sys2Proof.Machine

/-- The session registers of `s` beside the buffer, the streams and the serializer of `o` (rules R21 to R29). -/
def State.withSession (s o : State) : State :=
  { o with
    rxState := s.rxState, rxEsc := s.rxEsc, rxType := s.rxType, rxLen := s.rxLen,
    rxLenCnt := s.rxLenCnt, rxRead := s.rxRead, rxCrc := s.rxCrc, rxSum := s.rxSum,
    rxSumCnt := s.rxSumCnt }

/-- Two parsers that a consumer cannot tell apart: up to the type byte only the state and the flag count, then the session registers too, and in READ_DATA what has been collected. -/
inductive Alike (cfg : Config) : State → State → Prop
  | untyped {s t : State} (state : s.rxState = .waitStart ∨ s.rxState = .readType)
      (state_eq : t.rxState = s.rxState) (esc_eq : t.rxEsc = s.rxEsc)
      (buf : s.rxBuf.wf = true) (buf' : t.rxBuf.wf = true) : Alike cfg s t
  | typed {s o : State}
      (state : s.rxState = .readLength ∨ s.rxState = .readCrc ∨ s.rxState = .expectEnd)
      (buf : s.rxBuf.wf = true) (buf' : o.rxBuf.wf = true) : Alike cfg s (s.withSession o)
  | collecting {s o : State} (state : s.rxState = .readData) (room : s.rxBufN < cfg.chunkCap)
      (cursor : o.rxBufN = s.rxBufN) (chunk : o.chunk = s.chunk)
      (buf : s.rxBuf.wf = true) (buf' : o.rxBuf.wf = true) : Alike cfg s (s.withSession o)

/-- Both parsers complete, emit the same events and are alike again. -/
def AnswerAlike (cfg : Config) (f : State → Result) (s t : State) : Prop :=
  ∃ s' t' es, f s = .next s' ∧ f t = .next t' ∧ s'.events = s.events ++ es ∧
    t'.events = t.events ++ es ∧ Alike cfg s' t'

/-- Completion without an event. -/
theorem AnswerAlike.silent {cfg : Config} {f : State → Result} {s t s' t' : State}
    (left : f s = .next s') (right : f t = .next t') (events : s'.events = s.events)
    (events' : t'.events = t.events) (alike : Alike cfg s' t') : AnswerAlike cfg f s t :=
  ⟨s', t', [], left, right, by rw [events, List.append_nil], by rw [events', List.append_nil],
    alike⟩

theorem Alike.rxState_eq {cfg : Config} {s t : State} (alike : Alike cfg s t) :
    t.rxState = s.rxState := by
  cases alike with
  | untyped _ state_eq => exact state_eq
  | typed => rfl
  | collecting => rfl

theorem Alike.rxEsc_eq {cfg : Config} {s t : State} (alike : Alike cfg s t) :
    t.rxEsc = s.rxEsc := by
  cases alike with
  | untyped _ _ esc_eq => exact esc_eq
  | typed => rfl
  | collecting => rfl

theorem Alike.setRxEsc {cfg : Config} {s t : State} (alike : Alike cfg s t) (p : Bool) :
    Alike cfg (s.setRxEsc p) (t.setRxEsc p) := by
  cases alike with
  | untyped state state_eq esc_eq buf buf' => exact .untyped state state_eq rfl buf buf'
  | typed state buf buf' => exact .typed (s := s.setRxEsc p) state buf buf'
  | collecting state room cursor chunk buf buf' =>
    exact .collecting (s := s.setRxEsc p) state room cursor chunk buf buf'

/-! ### One logical byte -/

theorem takeLength_alike {cfg : Config} (wf : cfg.wf) {s o : State} (hs : s.rxState = .readLength)
    (buf : s.rxBuf.wf = true) (buf' : o.rxBuf.wf = true) (b : Byte) :
    AnswerAlike cfg (logicalByte cfg b) s (s.withSession o) := by
  have left := logicalByte_readLength cfg b s hs
  have right := logicalByte_readLength cfg b (s.withSession o) hs
  by_cases last : s.rxLenCnt + 1#3 = 4#3
  · have opens : takeLength b s = beginData (mergeLength b s) := if_pos last
    have opens' : takeLength b (s.withSession o) = beginData (mergeLength b (s.withSession o)) :=
      if_pos last
    rw [opens] at left
    rw [opens'] at right
    exact ⟨_, _, [.start s.rxType (mergeLength b s).rxLen], left, right, rfl, rfl,
      .collecting (s := beginData (mergeLength b s))
        (o := beginData (mergeLength b (s.withSession o))) rfl wf rfl rfl buf buf'⟩
  · have goesOn : takeLength b s = mergeLength b s := if_neg last
    have goesOn' : takeLength b (s.withSession o) = mergeLength b (s.withSession o) := if_neg last
    rw [goesOn] at left
    rw [goesOn'] at right
    exact .silent left right rfl rfl (.typed (s := mergeLength b s) (o := o) (.inl hs) buf buf')

/-- The end of a payload byte's step: the chunk is handed over by both or by neither. -/
theorem finishPayload_alike {cfg : Config} (wf : cfg.wf) {u v : State}
    (state : u.rxState = .readData) (room : u.rxBufN ≤ cfg.chunkCap) (cursor : v.rxBufN = u.rxBufN)
    (chunk : v.chunk = u.chunk) (buf : u.rxBuf.wf = true) (buf' : v.rxBuf.wf = true) :
    AnswerAlike cfg (fun s => .next (finishPayload cfg s)) u (u.withSession v) := by
  have left := finishPayload_cases cfg u
  have right := finishPayload_cases cfg (u.withSession v)
  have full_iff : (u.withSession v).rxBufN = cfg.chunkCap ↔ u.rxBufN = cfg.chunkCap := by
    rw [← cursor]
    rfl
  have emitted : Event.data u.rxType v.rxBufN v.chunk = .data u.rxType u.rxBufN u.chunk := by
    rw [cursor, chunk]
  by_cases complete : u.rxRead = u.rxLen
  · rw [if_pos complete] at left
    rw [if_pos (show (u.withSession v).rxRead = (u.withSession v).rxLen from complete)] at right
    exact ⟨_, _, [.data u.rxType u.rxBufN u.chunk], congrArg _ left, congrArg _ right, rfl,
      congrArg (v.events ++ [·]) emitted,
      .typed (s := (flushChunk u).setRxState .readCrc) (o := flushChunk (u.withSession v))
        (.inr (.inl rfl)) buf buf'⟩
  · rw [if_neg complete] at left
    rw [if_neg (show ¬ (u.withSession v).rxRead = (u.withSession v).rxLen from complete)] at right
    by_cases full : u.rxBufN = cfg.chunkCap
    · rw [if_pos full] at left
      rw [if_pos (full_iff.mpr full)] at right
      exact ⟨_, _, [.data u.rxType u.rxBufN u.chunk], congrArg _ left, congrArg _ right, rfl,
        congrArg (v.events ++ [·]) emitted,
        .collecting (s := flushChunk u) (o := flushChunk (u.withSession v)) state wf rfl rfl
          buf buf'⟩
    · rw [if_neg full] at left
      rw [if_neg fun full' => full (full_iff.mp full')] at right
      exact .silent (congrArg _ left) (congrArg _ right) rfl rfl
        (.collecting state (lt_of_le_of_ne room full) cursor chunk buf buf')

theorem takePayload_alike {cfg : Config} {s o : State} (hs : s.rxState = .readData)
    (due : s.rxRead < s.rxLen) (room : s.rxBufN < cfg.chunkCap) (cursor : o.rxBufN = s.rxBufN)
    (chunk : o.chunk = s.chunk) (buf : s.rxBuf.wf = true) (buf' : o.rxBuf.wf = true) (b : Byte) :
    AnswerAlike cfg (logicalByte cfg b) s (s.withSession o) := by
  have left : logicalByte cfg b s = .next (finishPayload cfg (storedPayload b s)) :=
    (logicalByte_payload cfg b s hs due).trans (takePayload_next cfg b s room)
  have right : logicalByte cfg b (s.withSession o) =
      .next (finishPayload cfg ((storedPayload b s).withSession (storedPayload b o))) :=
    (logicalByte_payload cfg b (s.withSession o) hs due).trans
      (takePayload_next cfg b (s.withSession o) (cursor ▸ room))
  have chunk' : (storedPayload b o).chunk = (storedPayload b s).chunk := by
    rw [storedPayload_chunk b o buf', storedPayload_chunk b s buf, chunk]
  obtain ⟨s', t', es, next, next', answers⟩ := finishPayload_alike (u := storedPayload b s)
    (v := storedPayload b o) (Nat.one_le_of_lt room) hs room (congrArg (· + 1) cursor) chunk'
    (Memory.write_wf _ _ _ buf) (Memory.write_wf _ _ _ buf')
  exact ⟨s', t', es, left.trans next, right.trans next', answers⟩

theorem takeSum_alike {cfg : Config} {s o : State}
    (hs : s.rxState = .readCrc ∨ (s.rxState = .readData ∧ ¬ s.rxRead < s.rxLen))
    (buf : s.rxBuf.wf = true) (buf' : o.rxBuf.wf = true) (b : Byte) :
    AnswerAlike cfg (logicalByte cfg b) s (s.withSession o) := by
  have target : (takeSum b s).rxState = .readCrc ∨ (takeSum b s).rxState = .expectEnd := by
    by_cases last : s.rxSumCnt + 1#3 = 4#3
    · exact .inr (if_pos last)
    · exact .inl (if_neg last)
  exact .silent (logicalByte_checksum cfg b s hs) (logicalByte_checksum cfg b (s.withSession o) hs)
    rfl rfl (.typed (s := takeSum b s) (o := o) (.inr target) buf buf')

theorem logicalByte_alike {cfg : Config} (wf : cfg.wf) {s t : State} (alike : Alike cfg s t)
    (hc : s.rxState.isContent = true) (b : Byte) : AnswerAlike cfg (logicalByte cfg b) s t := by
  cases alike with
  | untyped state state_eq esc_eq buf buf' =>
    rcases state with hs | hs
    · rw [hs] at hc
      cases hc
    · have session : (takeType b s).withSession (takeType b t) = takeType b t := by
        simp [State.withSession, takeType, esc_eq]
      have typed : Alike cfg (takeType b s) (takeType b t) :=
        session ▸ .typed (s := takeType b s) (o := takeType b t) (.inl rfl) buf buf'
      exact .silent (logicalByte_readType cfg b s hs)
        (logicalByte_readType cfg b t (state_eq.trans hs)) rfl rfl typed
  | typed state buf buf' =>
    rcases state with hs | hs | hs
    · exact takeLength_alike wf hs buf buf' b
    · exact takeSum_alike (.inl hs) buf buf' b
    · rw [hs] at hc
      cases hc
  | collecting state room cursor chunk buf buf' =>
    by_cases due : s.rxRead < s.rxLen
    · exact takePayload_alike state due room cursor chunk buf buf' b
    · exact takeSum_alike (.inr ⟨state, due⟩) buf buf' b

/-! ### Wire bytes -/

theorem rxByte_alike {cfg : Config} (wf : cfg.wf) {s t : State} (alike : Alike cfg s t)
    (w : Byte) : AnswerAlike cfg (rxByte cfg w) s t := by
  cases hc : s.rxState.isContent with
  | true =>
    have left := rxByte_content cfg w s hc
    have right := rxByte_content cfg w t (alike.rxState_eq ▸ hc)
    rw [alike.rxEsc_eq] at right
    generalize unescapeStage cfg s.rxEsc w = stage at left right
    obtain ⟨p, delivered⟩ := stage
    cases delivered with
    | none => exact .silent left right rfl rfl (alike.setRxEsc p)
    | some b =>
      obtain ⟨s', t', es, next, next', rest⟩ := logicalByte_alike wf (alike.setRxEsc p) hc b
      exact ⟨s', t', es, left.trans next, right.trans next', rest⟩
  | false =>
    cases alike with
    | untyped state state_eq esc_eq buf buf' =>
      rcases state with hs | hs
      · have left := rxByte_waitStart cfg w s hs
        have right := rxByte_waitStart cfg w t (state_eq.trans hs)
        by_cases isDelim : w = frameDelim
        · rw [if_pos isDelim] at left right
          exact .silent left right rfl rfl (.untyped (.inr rfl) rfl esc_eq buf buf')
        · rw [if_neg isDelim] at left right
          exact .silent left right rfl rfl (.untyped (.inl hs) state_eq esc_eq buf buf')
      · rw [hs] at hc
        cases hc
    | typed state buf buf' =>
      rcases state with hs | hs | hs
      · rw [hs] at hc
        cases hc
      · rw [hs] at hc
        cases hc
      · exact ⟨_, _, [.finished s.rxType (validFlag s.rxSumCnt s.rxCrc s.rxSum w)],
          rxByte_expectEnd cfg w s hs, rxByte_expectEnd cfg w (s.withSession _) hs, rfl, rfl,
          .untyped (.inl rfl) rfl rfl buf buf'⟩
    | collecting state =>
      rw [state] at hc
      cases hc

theorem rxBytes_alike {cfg : Config} (wf : cfg.wf) {s t : State} (alike : Alike cfg s t)
    (ws : List Byte) : AnswerAlike cfg (rxBytes cfg ws) s t := by
  induction ws generalizing s t with
  | nil => exact .silent rfl rfl rfl rfl alike
  | cons w ws ih =>
    obtain ⟨s1, t1, es, first, first', events, events', alike1⟩ := rxByte_alike wf alike w
    obtain ⟨s2, t2, fs, rest, rest', later, later', alike2⟩ := ih alike1
    exact ⟨s2, t2, es ++ fs, by rw [rxBytes_cons, first, Result.andThen_next, rest],
      by rw [rxBytes_cons, first', Result.andThen_next, rest'],
      by rw [later, events, List.append_assoc], by rw [later', events', List.append_assoc], alike2⟩

/-- Settles O56: between packets only the state and the flag count. -/
theorem sessionValuesNeverShow : Obligations.SessionValuesNeverShow := by
  intro cfg ws s1 s2 wf idle1 idle2 buf1 buf2
  obtain ⟨state1, esc1⟩ := idle1
  obtain ⟨state2, esc2⟩ := idle2
  have alike : Alike cfg s1 s2 :=
    .untyped (.inl state1) (state2.trans state1.symm) (esc2.trans esc1.symm) buf1 buf2
  obtain ⟨t1, t2, es, h1, h2, events1, events2, -⟩ := rxBytes_alike wf alike ws
  exact ⟨t1, t2, es, h1, h2, events1, events2⟩

end Sys2Proof.Machine
end
